-- ==== Sys2Proof/Word.lean ====
section
/-! DEFINITION. The word types of the block (spec/00_scope.md R5, R6): every quantity is an unsigned
bit vector, bit 0 its least significant bit. -/

namespace Sys2Proof

/-- `Octet`, the unit of the transport (R4, R6). -/
abbrev Octet := BitVec 8

/-- `Word16`, a register value at the API and a command or response word (R4, R6). -/
abbrev Word16 := BitVec 16

/-- `Data9`, a register payload on the wire (R4, R6). -/
abbrev Data9 := BitVec 9

/-- One pot's four flags (R18). -/
abbrev Nibble := BitVec 4

/-- `Bit`; "as a truth value 1 is true and 0 is false" (R6). -/
abbrev Bit := Bool

/-- `zext_16(v)`: widen to 16 bits with zeros above (R5). -/
abbrev zext16 {n : Nat} (v : BitVec n) : Word16 := v.setWidth 16

/-- `zext_8(v)`: widen to 8 bits with zeros above (R5). -/
abbrev zext8 {n : Nat} (v : BitVec n) : Octet := v.setWidth 8

end Sys2Proof
end

