-- ==== Sys2Proof/Syntax.lean ====
section
/-! DEFINITION. The syntax: the four wire commands of spec/opcode_table.json, the five requests of
the register API (R131), the transforms of `modify_register` (R140), and what crosses the block's two
interfaces (R7, R150, D24). -/

namespace Sys2Proof

/-- `RegAddr` (R6): "an enumerated value from a fixed small set". -/
inductive RegAddr where
  | wiper0 | wiper1 | tcon | status
deriving DecidableEq, Repr, Inhabited

/-- `WiperSel` (R6), the operand type of the short commands (R65, D15). -/
inductive WiperSel where
  | wiper0 | wiper1
deriving DecidableEq, Repr, Inhabited

/-- `Opcode` (R6). -/
inductive Opcode where
  | write | incr | decr | read
deriving DecidableEq, Repr, Inhabited

/-- A pot number, `which_pot` of R69 and R131. -/
inductive Pot where
  | pot0 | pot1
deriving DecidableEq, Repr, Inhabited

/-- The four flags of a pot's nibble (R18, R92). -/
inductive TconFlag where
  | termB | wiper | termA | started
deriving DecidableEq, Repr, Inhabited

/-- The wire commands (R70), one constructor per row of spec/opcode_table.json. -/
inductive Instr where
  /-- `WRITE a, d` (R112). -/
  | write (a : RegAddr) (d : Data9)
  /-- `READ a` (R113). -/
  | read (a : RegAddr)
  /-- `INCR w` (R114). -/
  | incr (w : WiperSel)
  /-- `DECR w` (R115). -/
  | decr (w : WiperSel)
deriving DecidableEq, Repr, Inhabited

/-- The transform of a `modify_register` request as plain data (R140, log 10). `table` alone already
writes every function `Word16 → Word16`; the other forms say the usual ones shortly. -/
inductive Transform where
  /-- `f(v) = v`. -/
  | identity
  /-- `f(v) = c`. -/
  | constant (c : Word16)
  /-- `f(v) = v & m`. -/
  | bitAnd (m : Word16)
  /-- `f(v) = v | m`. -/
  | bitOr (m : Word16)
  /-- `f(v) = v + k`, 16-bit addition, the host's own (spec/95_test_vectors.md P7). -/
  | add (k : Word16)
  /-- Replace one flag of the `tcon` view (R92, R99). -/
  | tconFlag (p : Pot) (k : TconFlag) (b : Bit)
  /-- Replace one pot's nibble of the `tcon` view (R91, R99). -/
  | tconPot (p : Pot) (n : Nibble)
  /-- Replace the shutdown flag of the `sreg` view (R94). -/
  | sregShutdown (b : Bit)
  /-- The value listed for the argument, the argument itself where none is listed. -/
  | table (entries : List (Word16 × Word16))
  /-- `first`, then `second`. -/
  | compose (first second : Transform)
deriving DecidableEq, Repr, Inhabited

/-- A request of the host: one of five tagged values (R131). -/
inductive Request where
  | readRegister (a : RegAddr)
  | writeRegister (a : RegAddr) (v : Word16)
  | modifyRegister (a : RegAddr) (f : Transform)
  | wiperIncrement (p : Pot)
  | wiperDecrement (p : Pot)
deriving DecidableEq, Repr, Inhabited

/-- The result of an operation (R131): `Option<Word16>` for `read_register`, a `Bit` for the others. -/
inductive Result where
  | value (v : Option Word16)
  | bit (b : Bit)
deriving DecidableEq, Repr, Inhabited

/-- What `Exchange` returns (R7, R150): `Ok(in)` or `Fail`. -/
inductive Answer where
  | ok (octets : List Octet)
  | fail
deriving DecidableEq, Repr, Inhabited

/-- What the far end does when it is polled (R152): it has not answered, or `Fail`, or `Ok`. The two
octets of `ok` are the response; a short command takes the first (log 26), so a reply has the length
of the command ("length-preserving", R150). -/
inductive Reply where
  | silent
  | fail
  | ok (r0 r1 : Octet)
deriving DecidableEq, Repr, Inhabited

/-- The recorded events (R7, D24). -/
inductive Event where
  /-- `EvSelAssert`. -/
  | selAssert
  /-- `EvExchange(out, r)`. -/
  | exchange (out : List Octet) (r : Answer)
  /-- `EvSelDeassert`. -/
  | selDeassert
  /-- `EvResult(v)`. -/
  | result (r : Result)
deriving DecidableEq, Repr, Inhabited

/-- A move of the environment while `cs` is deasserted (R8(d), R42, R157, R162; log 16). -/
inductive EnvMove where
  /-- Nothing: the block moves next. -/
  | yield
  /-- Another bus actor writes a peer register (R42). -/
  | otherWrite (a : RegAddr) (d : Data9)
  /-- A test changes `accept` of the reference peer (R157). -/
  | setAccept (b : Bit)
  /-- A test replaces the next exchange's answer by `Fail` (R162). -/
  | failNext
deriving DecidableEq, Repr, Inhabited

/-- The peer's four registers, 9 bits each as seen through the wire (R16, R157). -/
structure PeerRegs where
  wiper0 : Data9
  wiper1 : Data9
  tcon   : Data9
  status : Data9
deriving DecidableEq, Repr, Inhabited

/-- What the peer chip sees on its bus, which a free value of its registers is applied to (log 6). -/
inductive ChipEvent where
  /-- An exchange of the block, with what the far end made of it (R152). -/
  | exchange (out : List Octet) (r : Reply)
  /-- Another bus actor writes a register (R42). -/
  | otherWrite (a : RegAddr) (d : Data9)
deriving DecidableEq, Repr, Inhabited

/-- The four command formats' way of taking a response (R50, R61): which decoder reads it. -/
inductive RespKind where
  /-- `LR` as the response to WRITE: the acknowledgement only. -/
  | writeAck
  /-- `LR` as the response to READ: the acknowledgement, then the nine data bits. -/
  | readData
  /-- `SR`: the acknowledgement only. -/
  | shortAck
deriving DecidableEq, Repr, Inhabited

end Sys2Proof
end

