-- ==== Sys2Proof/Config.lean ====
section
/-! DEFINITION. What is fixed for the machine: the literals of spec/00_scope.md R4, and the free values
that stand where the spec forbids or gives no value (log 5, log 6). A free value has no body: a
statement proved of it holds whatever it is. -/

namespace Sys2Proof.Config

/-- `READ_FILLER` (R4, R60). -/
def readFiller : Octet := 0xFF#8

/-- `DATA_MASK` (R4). -/
def dataMask : Word16 := 0x1FF#16

/-- The reference value of `WIPER_MAX` (R4, R157). -/
def wiperMaxReference : Data9 := 0x100#9

/-- FREE VALUE (R152, D23): what the unconstrained far end does at poll number `n`, given what its
registers hold and the octets of the exchange. -/
opaque oracle : Nat → PeerRegs → List Octet → Reply

/-- FREE VALUE (R23, U16): what the peer's registers hold at reset, the parameter `reg0`. -/
opaque reg0 : PeerRegs

/-- FREE VALUE (U4, U5, U9, N16): what a real chip's registers hold after event number `n` on its bus,
given what they held before it and the event. -/
opaque chipRegs : Nat → PeerRegs → ChipEvent → PeerRegs

end Sys2Proof.Config
end

