-- ==== Sys2Proof/Machine/Codec.lean ====
section
/-! DEFINITION. The bit-field register codecs of spec/40_codecs.md (R80 to R99): pure functions that
touch no state. A view holds every bit of the raw value, the reserved ones included (R80). -/

namespace Sys2Proof.Machine

/-! ### Long response (R82 to R85) -/

/-- View of a long response word (R56, R83). -/
structure LongResp where
  reserved : BitVec 6
  ack      : Bit
  data     : Data9
deriving DecidableEq, Repr

/-- `resp_word(rx0, rx1) = rx0 ++ rx1` (R31, R82). -/
def respWord (rx0 rx1 : Octet) : Word16 := rx0 ++ rx1

/-- `data9(w) = w[8:0]` (R85). -/
def data9 (w : Word16) : Data9 := w.extractLsb' 0 9

/-- `unpack_long(w)` (R83). -/
def unpackLong (w : Word16) : LongResp where
  reserved := w.extractLsb' 10 6
  ack      := w.getLsbD 9
  data     := data9 w

/-- `pack_long(r) = reserved ++ ack ++ data` (R84). -/
def packLong (r : LongResp) : Word16 := r.reserved ++ BitVec.ofBool r.ack ++ r.data

/-! ### Short response (R86, R87) -/

/-- View of a short response octet (R55, R86). -/
structure ShortResp where
  rsvHi : BitVec 6
  ack   : Bit
  rsvLo : Bit
deriving DecidableEq, Repr

/-- `unpack_short(b)` (R86). -/
def unpackShort (b : Octet) : ShortResp where
  rsvHi := b.extractLsb' 2 6
  ack   := b.getLsbD 1
  rsvLo := b.getLsbD 0

/-- `pack_short(r) = rsv_hi ++ ack ++ rsv_lo` (R87). -/
def packShort (r : ShortResp) : Octet := r.rsvHi ++ BitVec.ofBool r.ack ++ BitVec.ofBool r.rsvLo

/-! ### Control register value `tcon` (R88 to R92, R99; bit offsets D11, polarity D12, log 18) -/

/-- One pot's four flags (R18, R88). -/
structure PotCtl where
  termB   : Bit
  wiper   : Bit
  termA   : Bit
  started : Bit
deriving DecidableEq, Repr

/-- View of a control register value (R88). -/
structure TconView where
  pot0 : PotCtl
  pot1 : PotCtl
deriving DecidableEq, Repr

/-- `unpack_pot(n)` (R88). -/
def unpackPot (n : Nibble) : PotCtl where
  termB   := n.getLsbD 0
  wiper   := n.getLsbD 1
  termA   := n.getLsbD 2
  started := n.getLsbD 3

/-- `pack_pot(p) = started ++ term_a ++ wiper ++ term_b` (R89). -/
def packPot (p : PotCtl) : Nibble :=
  BitVec.ofBool p.started ++ BitVec.ofBool p.termA ++ BitVec.ofBool p.wiper ++ BitVec.ofBool p.termB

/-- `unpack_tcon(t)` (R88): "pot0 low nibble, pot1 high nibble". -/
def unpackTcon (t : Octet) : TconView where
  pot0 := unpackPot (t.extractLsb' 0 4)
  pot1 := unpackPot (t.extractLsb' 4 4)

/-- `pack_tcon(v) = pack_pot(pot1) ++ pack_pot(pot0)` (R89). -/
def packTcon (v : TconView) : Octet := packPot v.pot1 ++ packPot v.pot0

/-- `tcon_pot(t, p)` (R90). -/
def tconPot (t : Octet) : Pot → Nibble
  | .pot0 => t.extractLsb' 0 4
  | .pot1 => t.extractLsb' 4 4

/-- `tcon_with_pot(t, p, n)` (R91). -/
def tconWithPot (t : Octet) (p : Pot) (n : Nibble) : Octet :=
  match p with
  | .pot0 => t.extractLsb' 4 4 ++ n
  | .pot1 => n ++ t.extractLsb' 0 4

/-- The number of a pot (R90). -/
def potIndex : Pot → Nat
  | .pot0 => 0
  | .pot1 => 1

/-- The offset of a flag inside its nibble (R92, D11). -/
def flagOffset : TconFlag → Nat
  | .termB   => 0
  | .wiper   => 1
  | .termA   => 2
  | .started => 3

/-- `4 * p + k`, the bit of `tcon` that holds flag `k` of pot `p` (R18, R92). -/
def flagBit (p : Pot) (k : TconFlag) : Nat := 4 * potIndex p + flagOffset k

/-- `tcon_flag(t, p, k)` (R92). -/
def tconFlag (t : Octet) (p : Pot) (k : TconFlag) : Bit := t.getLsbD (flagBit p k)

/-- `tcon_with_flag(t, p, k, b)` (R92). -/
def tconWithFlag (t : Octet) (p : Pot) (k : TconFlag) (b : Bit) : Octet :=
  (t &&& ~~~(0x01#8 <<< flagBit p k)) ||| (zext8 (BitVec.ofBool b) <<< flagBit p k)

/-- `tcon_of_value(v) = v[7:0]` (R99, D13). -/
def tconOfValue (v : Word16) : Octet := v.extractLsb' 0 8

/-- `value_with_tcon(v, t) = v[15:8] ++ t` (R99, D13). -/
def valueWithTcon (v : Word16) (t : Octet) : Word16 := v.extractLsb' 8 8 ++ t

/-! ### Status register value `sreg` (R93, R94) -/

/-- View of a status register value (R19, R93). -/
structure SregView where
  rsvHi    : BitVec 14
  shutdown : Bit
  rsvLo    : Bit
deriving DecidableEq, Repr

/-- `unpack_sreg(s)` (R93). -/
def unpackSreg (s : Word16) : SregView where
  rsvHi    := s.extractLsb' 2 14
  shutdown := s.getLsbD 1
  rsvLo    := s.getLsbD 0

/-- `sreg_shutdown(s) = s[1]` (R93). -/
def sregShutdown (s : Word16) : Bit := s.getLsbD 1

/-- `pack_sreg(v) = rsv_hi ++ shutdown ++ rsv_lo` (R94). -/
def packSreg (v : SregView) : Word16 := v.rsvHi ++ BitVec.ofBool v.shutdown ++ BitVec.ofBool v.rsvLo

/-- `sreg_with_shutdown(s, b) = (s & 0xFFFD) | (zext_16(b) << 1)` (R94). -/
def sregWithShutdown (s : Word16) (b : Bit) : Word16 :=
  (s &&& 0xFFFD#16) ||| (zext16 (BitVec.ofBool b) <<< 1)

/-! ### Wiper value (R95) -/

/-- `wiper_of_value(v) = data9(v)` (R95). -/
def wiperOfValue (v : Word16) : Data9 := data9 v

/-- `value_of_wiper(p) = zext_16(p)` (R95). -/
def valueOfWiper (p : Data9) : Word16 := zext16 p

end Sys2Proof.Machine
end

