-- ==== Sys2Proof/Machine/Flags.lean ====
section
/-! DEFINITION. The one condition the block tests, the acknowledgement bit (R15, R61), and the
optional-result wrapper over it (R130). -/

namespace Sys2Proof.Machine

/-- The acknowledgement of a long response, `resp[9]` (R61). -/
def ackLong (rx0 rx1 : Octet) : Bit := (unpackLong (respWord rx0 rx1)).ack

/-- The acknowledgement of a short response, `rx0[1]` (R61). -/
def ackShort (rx0 : Octet) : Bit := (unpackShort rx0).ack

/-- The payload of a long response, `resp[8:0]` (R61). -/
def longData (rx0 rx1 : Octet) : Data9 := (unpackLong (respWord rx0 rx1)).data

/-- `wrap_read` on a far end's reply (R130): `None` on `Fail` or nack, else the payload widened. A
`silent` far end has given no answer; it is never wrapped. -/
def wrapRead : Reply → Option Word16
  | .ok r0 r1 => if ackLong r0 r1 then some (zext16 (longData r0 r1)) else none
  | .fail     => none
  | .silent   => none

/-- `wrap_ack_long` (R130). -/
def wrapAckLong : Reply → Bit
  | .ok r0 r1 => ackLong r0 r1
  | .fail     => false
  | .silent   => false

/-- `wrap_ack_short` (R130). -/
def wrapAckShort : Reply → Bit
  | .ok r0 _ => ackShort r0
  | .fail    => false
  | .silent  => false

/-- The API value of a read, from the latches `ack` and `data` (R12, R132): the nine data bits are
read "only when `ack = 1`". -/
def readResult (ack : Bit) (data : Option Data9) : Option Word16 :=
  if ack then data.map zext16 else none

end Sys2Proof.Machine
end

