-- ==== Sys2Proof/WellFormed.lean ====
section
/-! DEFINITION. Well-formed wire commands. `Instr` is well-formed by its types (R64, R65: misuse is
"a compile-time/type-level impossibility"); what can be ill-formed is a `Frame`, the octets of a
command cut into the fields of spec/30_encoding.md R51 before they are typed. -/

namespace Sys2Proof

/-- `addr(a)` (R6). -/
def RegAddr.code : RegAddr → BitVec 4
  | .wiper0 => 0x0
  | .wiper1 => 0x1
  | .tcon   => 0x4
  | .status => 0x5

/-- `op(o)` (R6). -/
def Opcode.code : Opcode → BitVec 2
  | .write => 0b00
  | .incr  => 0b01
  | .decr  => 0b10
  | .read  => 0b11

/-- `WiperSel` is "a subset of `RegAddr`" (R6). -/
def WiperSel.toReg : WiperSel → RegAddr
  | .wiper0 => .wiper0
  | .wiper1 => .wiper1

/-- The fields of a command's octets (R51): address, opcode, bits 1:0 of octet 0, and octet 1 of a long
command. -/
structure Frame where
  addr  : BitVec 4
  op    : BitVec 2
  d9    : Bit
  d8    : Bit
  octet1 : Option Octet
deriving DecidableEq, Repr

/-- The address code is one of the four (R64, U3). -/
def Frame.addrKnown (f : Frame) : Bool :=
  f.addr == 0x0 || f.addr == 0x1 || f.addr == 0x4 || f.addr == 0x5

/-- The address code names a wiper (R52). -/
def Frame.addrWiper (f : Frame) : Bool :=
  f.addr == 0x0 || f.addr == 0x1

/-- The opcode is one of the short commands' (R68). -/
def Frame.isShort (f : Frame) : Bool :=
  f.op == 0b01 || f.op == 0b10

/-- INCR and DECR address wipers only (R65, U1). -/
def Frame.shortOnWiper (f : Frame) : Bool :=
  !f.isShort || f.addrWiper

/-- A long command has a second octet, a short one has none (R50, R68). -/
def Frame.lengthFits (f : Frame) : Bool :=
  f.octet1.isSome == !f.isShort

/-- Bit 1 of octet 0 is 0 in every command; bit 0 is 0 in all but WRITE (R66). -/
def Frame.zeroBits (f : Frame) : Bool :=
  !f.d9 && (f.op == 0b00 || !f.d8)

/-- Octet 1 of a READ is `0xFF` (R60). -/
def Frame.fillerFits (f : Frame) : Bool :=
  f.op != 0b11 || f.octet1 == some Config.readFiller

/-- A frame the block can send (R51 to R54, R64 to R66). -/
def Frame.wellFormed (f : Frame) : Bool :=
  f.addrKnown && f.shortOnWiper && f.lengthFits && f.zeroBits && f.fillerFits

/-- The frame of a wire command (R52 to R54). -/
def Instr.frame : Instr → Frame
  | .write a d => ⟨a.code, Opcode.write.code, false, d.getLsbD 8, some (d.extractLsb' 0 8)⟩
  | .read a    => ⟨a.code, Opcode.read.code, false, false, some Config.readFiller⟩
  | .incr w    => ⟨w.toReg.code, Opcode.incr.code, false, false, none⟩
  | .decr w    => ⟨w.toReg.code, Opcode.decr.code, false, false, none⟩

/-- A well-formed instruction: its frame is. Every `Instr` is (`Sys2Proof.Instr.wellFormed_all`). -/
def Instr.wellFormed (i : Instr) : Bool := i.frame.wellFormed

end Sys2Proof
end

