-- ==== Sys2Proof/Decode.lean ====
section
/-! DEFINITION. The command encoder (R51 to R54, R81, R97) and its inverse, a total decoder on any
octets that rejects by name. The block itself never decodes a command (R72); the decoder is what
`decodeTableWord` and the round-trip laws speak of. The peer's lenient reading of a command (R72:
second octet of a READ ignored) is `Machine/Peer.lean`'s. -/

namespace Sys2Proof

/-- `cmd_byte(op, a)` (R81): `(addr << 4) | (op << 2)`, the two fields disjoint. -/
def cmdByte (op : Opcode) (a : RegAddr) : Octet :=
  (zext8 a.code <<< 4) ||| (zext8 op.code <<< 2)

/-- `split9(d) = (d[8], d[7:0])` (R97). -/
def split9 (d : Data9) : Bit × Octet := (d.getLsbD 8, d.extractLsb' 0 8)

/-- `join9(h, l) = h ++ l` (R97). -/
def join9 (h : Bit) (l : Octet) : Data9 := BitVec.ofBool h ++ l

/-- WRITE (R54, R112): `tx0 = cmd_byte(WRITE, a) | zext_8(d[8])`, `tx1 = d[7:0]`. -/
def encodeWrite (a : RegAddr) (d : Data9) : List Octet :=
  [cmdByte .write a ||| zext8 (BitVec.ofBool (split9 d).1), (split9 d).2]

/-- READ (R53, R113): `tx0 = cmd_byte(READ, a)`, `tx1 = 0xFF`. -/
def encodeRead (a : RegAddr) : List Octet := [cmdByte .read a, Config.readFiller]

/-- INCR (R52, R114): one octet, `cmd_byte(INCR, w)`. -/
def encodeIncr (w : WiperSel) : List Octet := [cmdByte .incr w.toReg]

/-- DECR (R52, R115): one octet, `cmd_byte(DECR, w)`. -/
def encodeDecr (w : WiperSel) : List Octet := [cmdByte .decr w.toReg]

/-- The octets of a wire command, index 0 exchanged first (R30). -/
def encode : Instr → List Octet
  | .write a d => encodeWrite a d
  | .read a    => encodeRead a
  | .incr w    => encodeIncr w
  | .decr w    => encodeDecr w

/-- Why octets are no command of the block. -/
inductive DecodeError where
  /-- There is no octet, or a long command's second octet is missing (R50, R68). -/
  | truncated
  /-- The address code is outside the document's four (R64, U3). -/
  | unknownAddress (code : BitVec 4)
  /-- INCR or DECR with a non-wiper address (R65, U1). -/
  | shortOnNonWiper (code : BitVec 4)
  /-- A bit the block always sends as 0 is 1 (R66). -/
  | zeroBitSet
  /-- Octet 1 of a READ is not the filler (R60). -/
  | wrongFiller (octet : Octet)
deriving DecidableEq, Repr

/-- The register of an address code (R6, R37). -/
def RegAddr.ofCode (c : BitVec 4) : Option RegAddr :=
  if c = 0x0 then some .wiper0
  else if c = 0x1 then some .wiper1
  else if c = 0x4 then some .tcon
  else if c = 0x5 then some .status
  else none

/-- The wiper a register is, if it is one (R6). -/
def RegAddr.toWiper : RegAddr → Option WiperSel
  | .wiper0 => some .wiper0
  | .wiper1 => some .wiper1
  | .tcon   => none
  | .status => none

/-- The opcode of a code: all four are defined (R6). -/
def Opcode.ofCode (c : BitVec 2) : Opcode :=
  if c = 0b00 then .write
  else if c = 0b01 then .incr
  else if c = 0b10 then .decr
  else .read

/-- `op = b0[3:2]` (R51, R72). -/
def opField (b0 : Octet) : BitVec 2 := b0.extractLsb' 2 2

/-- `addr = b0[7:4]` (R51, R72). -/
def addrField (b0 : Octet) : BitVec 4 := b0.extractLsb' 4 4

/-- A short command's octet, read with its operation (R52). -/
def decodeShort (mk : WiperSel → Instr) (a : RegAddr) (b0 : Octet) (rest : List Octet) :
    Except DecodeError (Instr × List Octet) :=
  match a.toWiper with
  | none => .error (.shortOnNonWiper a.code)
  | some w => if b0.extractLsb' 0 2 = 0 then .ok (mk w, rest) else .error .zeroBitSet

/-- A WRITE's octets (R54): the payload is `b0[0] ++ b1`. -/
def decodeWrite (a : RegAddr) (b0 : Octet) : List Octet → Except DecodeError (Instr × List Octet)
  | [] => .error .truncated
  | b1 :: rest =>
    if b0.getLsbD 1 then .error .zeroBitSet else .ok (.write a (join9 (b0.getLsbD 0) b1), rest)

/-- A READ's octets (R53). -/
def decodeRead (a : RegAddr) (b0 : Octet) : List Octet → Except DecodeError (Instr × List Octet)
  | [] => .error .truncated
  | b1 :: rest =>
    if b0.extractLsb' 0 2 = 0 then
      if b1 = Config.readFiller then .ok (.read a, rest) else .error (.wrongFiller b1)
    else .error .zeroBitSet

/-- The first command of a sequence of octets, and the octets after it. Its length is a function of
the opcode (R68). -/
def decode : List Octet → Except DecodeError (Instr × List Octet)
  | [] => .error .truncated
  | b0 :: rest =>
    match RegAddr.ofCode (addrField b0) with
    | none => .error (.unknownAddress (addrField b0))
    | some a =>
      match Opcode.ofCode (opField b0) with
      | .write => decodeWrite a b0 rest
      | .incr  => decodeShort .incr a b0 rest
      | .decr  => decodeShort .decr a b0 rest
      | .read  => decodeRead a b0 rest

/-- The octets of a word numbered as spec/opcode_table.json numbers it (log 12): a 16-bit row is the
command word `tx0 ++ tx1`, `tx0` in bits 15:8 (R30); an 8-bit row is the one octet. -/
def tableOctets (nbits w : Nat) : List Octet :=
  if nbits = 16 then [BitVec.ofNat 8 (w / 256), BitVec.ofNat 8 w]
  else if nbits = 8 then [BitVec.ofNat 8 w]
  else []

/-- The instruction the decoder reads from a word of the opcode table, with no octet left over. -/
def decodeTableWord (nbits w : Nat) : Option Instr :=
  match decode (tableOctets nbits w) with
  | .ok (i, []) => some i
  | _ => none

end Sys2Proof
end

