-- ==== Sys2Proof/Machine/Operands.lean ====
section
/-! DEFINITION. Operand forms: pot numbers (R62, D16), the payload mask of a write (R59), the
transform of `modify_register` (R140), and the wire command of a request (R71). -/

namespace Sys2Proof.Machine

/-- `which_pot`: "pot 0 giving `WIPER0` and pot 1 giving `WIPER1`" (R62, D16). -/
def potWiper : Pot → WiperSel
  | .pot0 => .wiper0
  | .pot1 => .wiper1

/-- The entry listed for an argument, the argument itself where none is. -/
def tableApply (entries : List (Word16 × Word16)) (v : Word16) : Word16 :=
  match entries with
  | [] => v
  | (x, y) :: rest => if v = x then y else tableApply rest v

/-- The function a transform stands for (R140): total and pure. -/
def applyTransform : Transform → Word16 → Word16
  | .identity, v         => v
  | .constant c, _       => c
  | .bitAnd m, v         => v &&& m
  | .bitOr m, v          => v ||| m
  | .add k, v            => v + k
  | .tconFlag p k b, v   => valueWithTcon v (tconWithFlag (tconOfValue v) p k b)
  | .tconPot p n, v      => valueWithTcon v (tconWithPot (tconOfValue v) p n)
  | .sregShutdown b, v   => sregWithShutdown v b
  | .table entries, v    => tableApply entries v
  | .compose f g, v      => applyTransform g (applyTransform f v)

/-- How the response to a wire command is taken (R61). -/
def respKind : Instr → RespKind
  | .write _ _ => .writeAck
  | .read _    => .readData
  | .incr _    => .shortAck
  | .decr _    => .shortAck

/-- The wire command an operation sends next (R71): for `modify_register` the READ while `held` has no
value, then the WRITE of `f(held)`, masked to nine bits. -/
def commandOf (r : Request) (held : Option Word16) : Instr :=
  match r with
  | .readRegister a    => .read a
  | .writeRegister a v => .write a (data9 v)
  | .wiperIncrement p  => .incr (potWiper p)
  | .wiperDecrement p  => .decr (potWiper p)
  | .modifyRegister a f =>
    match held with
    | none   => .read a
    | some v => .write a (data9 (applyTransform f v))

/-- A request whose one wire command is the given one (R71, inverted): how the host asks for it. -/
def requestOf : Instr → Request
  | .write a d => .writeRegister a (zext16 d)
  | .read a    => .readRegister a
  | .incr .wiper0 => .wiperIncrement .pot0
  | .incr .wiper1 => .wiperIncrement .pot1
  | .decr .wiper0 => .wiperDecrement .pot0
  | .decr .wiper1 => .wiperDecrement .pot1

end Sys2Proof.Machine
end

