-- ==== Sys2Proof/Machine/State.lean ====
section
/-! DEFINITION. The state (spec/10_state.md), as plain data, and its value after reset (R22, R23,
R190). INVENTORY.md lists every field with its rule and its reset value. -/

namespace Sys2Proof.Machine

/-- The chip-select line `cs` (R11). -/
inductive Select where
  | deasserted | asserted
deriving DecidableEq, Repr, Inhabited

/-- The sequencing state `phase` (R13). -/
inductive Phase where
  /-- No operation in flight. -/
  | idle
  /-- `SelAssert()` done, `Exchange` not yet answered. -/
  | selected
  /-- `Exchange` answered, `SelDeassert()` not yet done. -/
  | answered
  /-- `modify_register` only: the read bracket closed with `ack = 1`, the write bracket not yet open. -/
  | between
deriving DecidableEq, Repr, Inhabited

/-- The block: `cs`, `phase` and the working latches of the operation in flight (R11 to R13). `none` is
the spec's own state of a latch: "A latch that the current operation has not written holds no value"
(R12; log 3). -/
structure Block where
  cs    : Select
  phase : Phase
  req   : Option Request
  tx0   : Option Octet
  tx1   : Option Octet
  rx0   : Option Octet
  rx1   : Option Octet
  ack   : Option Bit
  data  : Option Data9
  held  : Option Word16
deriving DecidableEq, Repr, Inhabited

/-- The peer chip's registers (R16), with the reference peer's `accept` and `WIPER_MAX` (R157). -/
structure Peer where
  regs     : PeerRegs
  accept   : Bit
  wiperMax : Data9
deriving DecidableEq, Repr, Inhabited

/-- Who answers an exchange (R152, R163). -/
inductive FarEnd where
  /-- The unconstrained oracle: the free value `Config.oracle` (R152). -/
  | oracle
  /-- An oracle whose replies are given, the next one first; with none left it never answers (R205). -/
  | script (replies : List Reply)
  /-- The reference peer, a test fixture (R157 to R163). -/
  | reference
deriving DecidableEq, Repr, Inhabited

/-- The block and its environment: the host's requests (R8(a)), the other bus actor's and a test's
moves (R8(d), R162), the far end (R8(c)), and the events recorded (R7), oldest first. -/
structure State where
  block    : Block
  requests : List Request
  env      : List EnvMove
  far      : FarEnd
  peer     : Peer
  failNext : Bit
  /-- The model's own counter, which the free values of `Config` are applied to (log 5). -/
  polls    : Nat
  trace    : List Event
deriving DecidableEq, Repr, Inhabited

/-- No rule makes the block fault: "The block never raises, traps or aborts"; "there is no fault
outcome and no fault bit" (R170; log 20). So this type has no constructor. -/
inductive Fault where
deriving DecidableEq, Repr

/-- Why the model stops without a meaning. -/
inductive Refusal where
  /-- Raised by an arm of `exec` that has no meaning yet. Safe: the machine stops. -/
  | notModelled (mnemonic : String)
  /-- Raised by a wire command asked for while a bracket is open (U15: `refuse`; R138: no step presents
  a request while `phase != IDLE`). `step` never asks for one. Safe: the machine stops (log 14). -/
  | bracketOpen
  /-- Raised by `step` in a state no run reaches, where an operation is in flight and the latch `req`
  holds no value (R12: "no rule reads one"). Safe: the machine stops (log 15). -/
  | latchWithoutValue
deriving DecidableEq, Repr

/-- The block after reset (R22, D6): `cs` deasserted, `phase` idle, every working latch without a
value. -/
def Block.reset : Block where
  cs    := .deasserted
  phase := .idle
  req   := none
  tx0   := none
  tx1   := none
  rx0   := none
  rx1   := none
  ack   := none
  data  := none
  held  := none

/-- The peer at reset: registers unspecified (R23), the reference peer's arguments as log 8 names them. -/
def Peer.reset : Peer where
  regs     := Config.reg0
  accept   := true
  wiperMax := Config.wiperMaxReference

/-- The machine right after reset: the block as R22 says, the far end unconstrained (R152), nothing
requested, nothing recorded. -/
def State.reset : State where
  block    := Block.reset
  requests := []
  env      := []
  far      := .oracle
  peer     := Peer.reset
  failNext := false
  polls    := 0
  trace    := []

end Sys2Proof.Machine
end

