-- ==== Sys2Proof/Machine/Peer.lean ====
section
/-! DEFINITION. The reference peer (R157 to R163), "a test fixture: no claim about the real chip may
rest on it" (log 8). It reads a command leniently (R72): a READ's second octet and bits 1:0 of the
first are ignored. -/

namespace Sys2Proof.Machine

/-- `reg[a]` (R157). -/
def PeerRegs.read (g : PeerRegs) : RegAddr → Data9
  | .wiper0 => g.wiper0
  | .wiper1 => g.wiper1
  | .tcon   => g.tcon
  | .status => g.status

/-- `reg[a] <- d` (R159). -/
def PeerRegs.write (g : PeerRegs) (a : RegAddr) (d : Data9) : PeerRegs :=
  match a with
  | .wiper0 => { g with wiper0 := d }
  | .wiper1 => { g with wiper1 := d }
  | .tcon   => { g with tcon := d }
  | .status => { g with status := d }

/-- The nack patterns, `Ok([0xFD])` and `Ok([0xFD, 0xFF])` (R158 to R162). -/
def peerNack : Reply := .ok 0xFD#8 0xFF#8

/-- The acknowledgement of a WRITE, INCR or DECR, `Ok([0xFF])` or `Ok([0xFF, 0xFF])` (R159 to R161). -/
def peerAck : Reply := .ok 0xFF#8 0xFF#8

/-- Reference peer, READ (R158). -/
def Peer.onRead (p : Peer) (a : RegAddr) : Peer × Reply :=
  if p.accept then
    (p, .ok (0xFE#8 ||| zext8 (BitVec.ofBool ((PeerRegs.read p.regs a).getLsbD 8)))
            ((PeerRegs.read p.regs a).extractLsb' 0 8))
  else (p, peerNack)

/-- Reference peer, WRITE (R159): all nine bits are stored, for every register. -/
def Peer.onWrite (p : Peer) (a : RegAddr) (d : Data9) : Peer × Reply :=
  if p.accept then ({ p with regs := PeerRegs.write p.regs a d }, peerAck) else (p, peerNack)

/-- One step up, clamped at `WIPER_MAX` (R160). -/
def stepUp (max v : Data9) : Data9 := if v < max then v + 1#9 else v

/-- One step down, clamped at 0 (R161). -/
def stepDown (v : Data9) : Data9 := if v > 0#9 then v - 1#9 else v

/-- Reference peer, INCR (R160). -/
def Peer.onIncr (p : Peer) (w : WiperSel) : Peer × Reply :=
  if p.accept then
    ({ p with regs := PeerRegs.write p.regs w.toReg (stepUp p.wiperMax (PeerRegs.read p.regs w.toReg)) }, peerAck)
  else (p, peerNack)

/-- Reference peer, DECR (R161). -/
def Peer.onDecr (p : Peer) (w : WiperSel) : Peer × Reply :=
  if p.accept then
    ({ p with regs := PeerRegs.write p.regs w.toReg (stepDown (PeerRegs.read p.regs w.toReg)) }, peerAck)
  else (p, peerNack)

/-- The reference peer's answer to a long command (R72, R158, R159, R162). -/
def Peer.onLong (p : Peer) (b0 b1 : Octet) : Peer × Reply :=
  match RegAddr.ofCode (addrField b0) with
  | none => (p, peerNack)
  | some a =>
    match Opcode.ofCode (opField b0) with
    | .write => p.onWrite a (join9 (b0.getLsbD 0) b1)
    | .read  => p.onRead a
    | .incr  => (p, peerNack)
    | .decr  => (p, peerNack)

/-- The reference peer's answer to a short command (R160 to R162): a non-wiper address is nacked. -/
def Peer.onShort (p : Peer) (b0 : Octet) : Peer × Reply :=
  match (RegAddr.ofCode (addrField b0)).bind RegAddr.toWiper with
  | none => (p, peerNack)
  | some w =>
    match Opcode.ofCode (opField b0) with
    | .incr  => p.onIncr w
    | .decr  => p.onDecr w
    | .write => (p, peerNack)
    | .read  => (p, peerNack)

/-- The reference peer's answer to any octets (R157 to R162). -/
def Peer.respond (p : Peer) (out : List Octet) : Peer × Reply :=
  match out with
  | [b0]     => p.onShort b0
  | [b0, b1] => p.onLong b0 b1
  | _        => (p, peerNack)

end Sys2Proof.Machine
end

