-- ==== Sys2Proof/Machine/Ops.lean ====
section
/-! DEFINITION. The shared operations: the bracket and its three parts (R7, R110), the far end's poll
(R152), the decoding of a response into the latches (R61, R111), and the end of an operation, which
takes the place of exception entry and return (R178, R179). -/

namespace Sys2Proof.Machine

/-- Record an event (R7). -/
def State.record (s : State) (e : Event) : State := { s with trace := s.trace ++ [e] }

/-- Replace the block's part of the state. -/
def State.withBlock (s : State) (b : Block) : State := { s with block := b }

/-! ### Opening a bracket -/

/-- The encoder writes `tx0`, and `tx1` for a long command (R12). -/
def Block.loadTx (b : Block) (out : List Octet) : Block :=
  match out with
  | [t0]           => { b with tx0 := some t0 }
  | t0 :: t1 :: _  => { b with tx0 := some t0, tx1 := some t1 }
  | []             => b

/-- `SelAssert()` (R7): `cs <- ASSERTED`, `IDLE` or `BETWEEN` to `SELECTED` (R13), `EvSelAssert`. -/
def selAssert (s : State) : State :=
  (s.withBlock { s.block with cs := .asserted, phase := .selected }).record .selAssert

/-- The encoder, then `SelAssert()`. -/
def openBracket (out : List Octet) (s : State) : State :=
  selAssert (s.withBlock (s.block.loadTx out))

/-! ### The exchange -/

/-- The octets `Exchange` sends, from the latches (R12): `tx0`, and `tx1` for a long command. -/
def Block.txOctets (b : Block) : RespKind → List Octet
  | .shortAck => b.tx0.toList
  | .writeAck => b.tx0.toList ++ b.tx1.toList
  | .readData => b.tx0.toList ++ b.tx1.toList

/-- What the far end does when the block polls it with `out` (R152). A test's injected failure replaces
the answer (R162). -/
def farReply (s : State) (out : List Octet) : Reply :=
  if s.failNext then .fail
  else
    match s.far with
    | .oracle          => Config.oracle s.polls s.peer.regs out
    | .script replies  => replies.headD .silent
    | .reference       => (s.peer.respond out).2

/-- A real chip after a poll: what its registers hold is a free value (U9, log 6). -/
def chipAfter (s : State) (out : List Octet) : Peer :=
  { s.peer with regs := Config.chipRegs s.polls s.peer.regs (.exchange out (farReply s out)) }

/-- The peer after a poll. The reference peer answers by its rules, and a failed exchange never reached
it (spec/95_test_vectors.md P5). -/
def peerAfter (s : State) (out : List Octet) : Peer :=
  match s.far with
  | .oracle    => chipAfter s out
  | .script _  => chipAfter s out
  | .reference => if s.failNext then s.peer else (s.peer.respond out).1

/-- The far end after a poll: a given reply is used up. -/
def FarEnd.afterPoll : FarEnd → FarEnd
  | .oracle         => .oracle
  | .script replies => .script replies.tail
  | .reference      => .reference

/-- The environment's part of a poll. -/
def afterPoll (s : State) (out : List Octet) : State :=
  { s with far := s.far.afterPoll, peer := peerAfter s out, failNext := false, polls := s.polls + 1 }

/-- The octets received: as many as were sent (R150: "length-preserving"). -/
def received (k : RespKind) (r0 r1 : Octet) : List Octet :=
  match k with
  | .shortAck => [r0]
  | .writeAck => [r0, r1]
  | .readData => [r0, r1]

/-- The decoder (R61, R111): the acknowledgement, and the nine data bits only of a READ with `ack = 1`;
every other bit is ignored (R67). -/
def Block.latchResponse (b : Block) (k : RespKind) (r0 r1 : Octet) : Block :=
  match k with
  | .shortAck => { b with rx0 := some r0, ack := some (ackShort r0) }
  | .writeAck => { b with rx0 := some r0, rx1 := some r1, ack := some (ackLong r0 r1) }
  | .readData =>
    { b with
      rx0 := some r0, rx1 := some r1, ack := some (ackLong r0 r1)
      data := if ackLong r0 r1 then some (longData r0 r1) else b.data }

/-- Poll the far end (R110's `Exchange`). If it answers, the event is recorded, the latches are written
and `SELECTED` becomes `ANSWERED`; a `Fail` writes `ack <- 0` and nothing else (R12, R116). If it does
not, the block stays as it is (R205, log 7). -/
def poll (k : RespKind) (s : State) : State :=
  let out := s.block.txOctets k
  let s' := afterPoll s out
  match farReply s out with
  | .silent => s'
  | .fail =>
    (s'.withBlock { s.block with ack := some false, phase := .answered }).record (.exchange out .fail)
  | .ok r0 r1 =>
    (s'.withBlock { s.block.latchResponse k r0 r1 with phase := .answered }).record
      (.exchange out (.ok (received k r0 r1)))

/-! ### Closing a bracket, and the end of an operation -/

/-- `SelDeassert()` (R7): `cs <- DEASSERTED`, `EvSelDeassert`; the bracket is over (R13). -/
def selDeassert (s : State) : State :=
  (s.withBlock { s.block with cs := .deasserted, phase := .idle }).record .selDeassert

/-- The rest of a bracket that is open: poll, and close it once the far end has answered, whatever the
answer (R110). -/
def resumeBracket (k : RespKind) (s : State) : State :=
  let s' := poll k s
  match s'.block.phase with
  | .answered => selDeassert s'
  | _         => s'

/-- One bracket, `Transact(out)` with the decoder of its response (R110, R111). -/
def transact (out : List Octet) (k : RespKind) (s : State) : State :=
  resumeBracket k (openBracket out s)

/-- A wire command: one bracket, where none is open (R110: "`cs` must be `DEASSERTED` on entry"). -/
def runCommand (out : List Octet) (k : RespKind) (s : State) : Host.Outcome State Fault Refusal :=
  match s.block.phase with
  | .idle     => .next (transact out k s)
  | .between  => .next (transact out k s)
  | .selected => .refused .bracketOpen
  | .answered => .refused .bracketOpen

/-- `return v` (R7): the result goes to the host, `phase <- IDLE`, and no latch keeps a value: "After any
outcome the block is in the same state as after reset" (R179). On a failure this is the whole of what
stands in place of an exception's entry and return (R178). -/
def finish (r : Result) (s : State) : State :=
  (s.withBlock Block.reset).record (.result r)

end Sys2Proof.Machine
end

