-- ==== Sys2Proof/Machine/Api.lean ====
section
/-! DEFINITION. The register-level API around the wire commands (R132 to R138): accepting a request,
taking a command's result, and whose turn it is (R8, R13). -/

namespace Sys2Proof.Machine

/-- What the next step does (R13). -/
inductive Action where
  /-- The environment moves (R8(d)). -/
  | environment (m : EnvMove)
  /-- No operation is in flight and the host presents no request. -/
  | waiting
  /-- A request is accepted and its first wire command sent (R138). -/
  | accept (r : Request) (i : Instr)
  /-- The write bracket of `modify_register` is sent (R136). -/
  | writeBack (i : Instr)
  /-- The open bracket's far end is polled again (R205). -/
  | resume (i : Instr)
  /-- The answered bracket is closed. -/
  | close
  /-- An operation is in flight and `req` holds no value: no run comes here. -/
  | stuck
deriving DecidableEq, Repr

/-- The move of the environment that is due, if its next one is not to yield (R8(d), R42). -/
def envDue : List EnvMove → Option EnvMove
  | []          => none
  | .yield :: _ => none
  | m :: _      => some m

/-- Whose turn it is, and what it does (R13): the environment acts only in `IDLE` and `BETWEEN`, a
request is accepted only in `IDLE`. -/
def nextAction (s : State) : Action :=
  match s.block.phase with
  | .idle =>
    match envDue s.env with
    | some m => .environment m
    | none =>
      match s.requests with
      | []     => .waiting
      | r :: _ => .accept r (commandOf r none)
  | .between =>
    match envDue s.env with
    | some m => .environment m
    | none =>
      match s.block.req with
      | none   => .stuck
      | some r => .writeBack (commandOf r s.block.held)
  | .selected =>
    match s.block.req with
    | none   => .stuck
    | some r => .resume (commandOf r s.block.held)
  | .answered =>
    match s.block.req with
    | none   => .stuck
    | some _ => .close

/-- The environment's turn is over: a leading `yield` is used up. -/
def takeTurn (s : State) : State :=
  match s.env with
  | .yield :: rest => { s with env := rest }
  | _              => s

/-- The block accepts a request (R138): `req` is written, no other latch has a value (R12). -/
def acceptRequest (r : Request) (s : State) : State :=
  let s' := takeTurn s
  { s' with block := { Block.reset with req := some r }, requests := s'.requests.tail }

/-- What another actor's write leaves in the peer's registers: the value in the reference peer, a free
value in a chip (log 6). -/
def otherWriteRegs (s : State) (a : RegAddr) (d : Data9) : PeerRegs :=
  match s.far with
  | .oracle    => Config.chipRegs s.polls s.peer.regs (.otherWrite a d)
  | .script _  => Config.chipRegs s.polls s.peer.regs (.otherWrite a d)
  | .reference => PeerRegs.write s.peer.regs a d

/-- A move of the environment (R42, R157, R162). -/
def envMove (m : EnvMove) (s : State) : State :=
  let s' := { s with env := s.env.tail }
  match m with
  | .yield          => s'
  | .otherWrite a d =>
    { s' with peer := { s.peer with regs := otherWriteRegs s a d }, polls := s.polls + 1 }
  | .setAccept b    => { s' with peer := { s.peer with accept := b } }
  | .failNext       => { s' with failNext := true }

/-- The API layer takes the result of a command whose bracket is closed (R132 to R136): the operation
returns it, or, where it is `modify_register`'s read and gave a value, keeps the value in `held` and
goes to `BETWEEN`. While the bracket is open there is no result to take. -/
def deliver (s : State) : State :=
  match s.block.phase with
  | .idle =>
    match s.block.req, s.block.ack with
    | some (.readRegister _), some ack => finish (.value (readResult ack s.block.data)) s
    | some (.writeRegister _ _), some ack => finish (.bit ack) s
    | some (.wiperIncrement _), some ack => finish (.bit ack) s
    | some (.wiperDecrement _), some ack => finish (.bit ack) s
    | some (.modifyRegister _ _), some ack =>
      match s.block.held with
      | some _ => finish (.bit ack) s
      | none =>
        match readResult ack s.block.data with
        | none   => finish (.bit false) s
        | some v => s.withBlock { s.block with phase := .between, held := some v }
    | _, _ => s
  | _ => s

/-- What follows a command's outcome. -/
def thenDo (f : State → State) (o : Host.Outcome State Fault Refusal) : Host.Outcome State Fault Refusal :=
  match o with
  | .next s    => .next (f s)
  | .fault r   => .fault r
  | .refused r => .refused r

/-- The host presents the request for a wire command next, the block being idle and the environment
quiet (log 12). -/
def presentCommand (i : Instr) (s : State) : State :=
  { s with block := Block.reset, env := [], requests := requestOf i :: s.requests }

end Sys2Proof.Machine
end

