-- ==== Sys2Proof/Machine/Long.lean ====
section
/-! DEFINITION. The long commands, WRITE and READ (R112, R113). -/

namespace Sys2Proof.Machine

/-- WRITE (R112, `BusWrite`): send `[cmd_byte(WRITE, a) | d[8], d[7:0]]`; the latch `ack` holds the
result, 0 on nack or transport failure. -/
def execWrite (a : RegAddr) (d : Data9) (s : State) : Host.Outcome State Fault Refusal :=
  runCommand (encodeWrite a d) .writeAck s

/-- READ (R113, `BusRead`): send `[cmd_byte(READ, a), 0xFF]`; the latches `ack` and, when it is 1,
`data` hold the result. -/
def execRead (a : RegAddr) (s : State) : Host.Outcome State Fault Refusal :=
  runCommand (encodeRead a) .readData s

end Sys2Proof.Machine
end

