-- ==== Sys2Proof/Machine/Short.lean ====
section
/-! DEFINITION. The short commands, INCR and DECR (R114, R115). The step of the wiper is the peer's
(R98). -/

namespace Sys2Proof.Machine

/-- INCR (R114, `BusIncr`): send `[cmd_byte(INCR, w)]`; the latch `ack` holds the result. -/
def execIncr (w : WiperSel) (s : State) : Host.Outcome State Fault Refusal :=
  runCommand (encodeIncr w) .shortAck s

/-- DECR (R115, `BusDecr`): send `[cmd_byte(DECR, w)]`; the latch `ack` holds the result. -/
def execDecr (w : WiperSel) (s : State) : Host.Outcome State Fault Refusal :=
  runCommand (encodeDecr w) .shortAck s

end Sys2Proof.Machine
end

