-- ==== Sys2Proof/Machine/Dispatch.lean ====
section
/-! DEFINITION. One arm per wire command. -/

namespace Sys2Proof.Machine

def exec (i : Instr) (s : State) : Host.Outcome State Fault Refusal :=
  match i with
  | .write a d => Sys2Proof.Machine.execWrite a d s
  | .read a => Sys2Proof.Machine.execRead a s
  | .incr w => Sys2Proof.Machine.execIncr w s
  | .decr w => Sys2Proof.Machine.execDecr w s

end Sys2Proof.Machine
end

