-- ==== Sys2Proof/Machine/Step.lean ====
section
/-! DEFINITION. One step: of the environment, or of the block, whose step is one bracket (R13, log 1).
`exec` is the wire command; accepting the request before it and taking the result after it are the API
layer's. -/

namespace Sys2Proof.Machine

/-- One step (R13). -/
def step (s : State) : Host.Outcome State Fault Refusal :=
  match nextAction s with
  | .environment m => .next (envMove m s)
  | .waiting       => .next (takeTurn s)
  | .accept r i    => thenDo deliver (exec i (acceptRequest r s))
  | .writeBack i   => thenDo deliver (exec i (takeTurn s))
  | .resume i      => .next (deliver (resumeBracket (respKind i) s))
  | .close         => .next (deliver (selDeassert s))
  | .stuck         => .refused .latchWithoutValue

/-- The state in which the next step runs the instruction of a table word: the block fetches nothing
(R14), so the host presents the request that sends it (log 12). A word that is no command of the block
cannot be requested (R64, R65) and changes nothing. -/
def State.withFetchWord (s : State) (nbits w : Nat) : State :=
  match decodeTableWord nbits w with
  | some i => presentCommand i s
  | none   => s

end Sys2Proof.Machine
end

