-- ==== Sys2Proof/Machine/Micro.lean ====
section
/-! DEFINITION. The machine at the grain of R13: one phase transition a step. `step` takes a whole
bracket at once, which R13 allows ("equivalent for a single owner of the bus"); that each `step` is some
of these transitions is an obligation. -/

namespace Sys2Proof.Machine

/-- One transition of `phase` (R13), or one move of the environment. -/
def microStep (s : State) : Host.Outcome State Fault Refusal :=
  match nextAction s with
  | .environment m => .next (envMove m s)
  | .waiting       => .next (takeTurn s)
  | .accept r i    => .next (openBracket (encode i) (acceptRequest r s))
  | .writeBack i   => .next (openBracket (encode i) (takeTurn s))
  | .resume i      => .next (poll (respKind i) s)
  | .close         => .next (deliver (selDeassert s))
  | .stuck         => .refused .latchWithoutValue

/-- Some transitions in a row. -/
def microSteps : Nat → State → Host.Outcome State Fault Refusal
  | 0, s => .next s
  | n + 1, s =>
    match microStep s with
    | .next s'   => microSteps n s'
    | .fault r   => .fault r
    | .refused r => .refused r

end Sys2Proof.Machine
end

