-- ==== Sys2Proof/Safety.lean ====
section
/-! DEFINITION. What a good state is, in the terms the statements use: the latches agree with the phase
(R12, R13), and the recorded events are well-bracketed (R110, R139, R151). -/

namespace Sys2Proof.Machine

/-- Where the bus stands in the pattern of R139: exchanges lie between an assertion and the next
deassertion, exactly one in each. -/
inductive BusPhase where
  /-- No bracket open. -/
  | closed
  /-- Asserted, the exchange not yet answered. -/
  | opened
  /-- The exchange answered, not yet deasserted. -/
  | exchanged
deriving DecidableEq, Repr

/-- The one event pattern allowed (R139, R151); a result is handed over with no bracket open (R40(b)). -/
def busNext : BusPhase → Event → Option BusPhase
  | .closed, .selAssert      => some .opened
  | .opened, .exchange _ _   => some .exchanged
  | .exchanged, .selDeassert => some .closed
  | .closed, .result _       => some .closed
  | _, _                     => none

/-- The pattern run over events; `none` where an event is out of place. -/
def busScan (events : List Event) (from_ : Option BusPhase) : Option BusPhase :=
  events.foldl (fun p e => p.bind (busNext · e)) from_

/-- Where the bus stands in each phase (R13). -/
def busPhaseOf : Phase → BusPhase
  | .idle     => .closed
  | .selected => .opened
  | .answered => .exchanged
  | .between  => .closed

/-- `cs` in each phase, the table of R13. -/
def selectOf : Phase → Select
  | .idle     => .deasserted
  | .selected => .asserted
  | .answered => .asserted
  | .between  => .deasserted

/-- `held` holds a value only in a `modify_register` whose read gave one, a value of nine bits widened
(R12, R136). -/
def Block.heldFits (b : Block) : Prop :=
  match b.held with
  | none   => True
  | some v => (∃ a f, b.req = some (.modifyRegister a f)) ∧ ∃ d : Data9, v = zext16 d

/-- The command in flight: the request's next one, its octets in `tx0` and `tx1` (R12). -/
def Block.inFlight (b : Block) (i : Instr) : Prop :=
  (∃ r, b.req = some r ∧ i = commandOf r b.held) ∧ b.txOctets (respKind i) = encode i

/-- The latches agree with the phase (R12, R13). -/
def Block.consistent (b : Block) : Prop :=
  match b.phase with
  | .idle     => b = Block.reset
  | .selected => b.cs = .asserted ∧ b.heldFits ∧ ∃ i, b.inFlight i
  | .answered => b.cs = .asserted ∧ b.heldFits ∧ (∃ i, b.inFlight i) ∧ b.ack.isSome
  | .between  => b.cs = .deasserted ∧ b.heldFits ∧ b.held.isSome ∧ b.ack = some true

/-- The invariant of every run: the latches agree with the phase and the events recorded are the
pattern of R139 up to where the phase says the bus stands. -/
def State.Inv (s : State) : Prop :=
  s.block.consistent ∧ busScan s.trace (some .closed) = some (busPhaseOf s.block.phase)

/-- The block can open a bracket (R13, R110). -/
abbrev State.ready (s : State) : Prop := s.block.phase = .idle ∨ s.block.phase = .between

/-- No move of the environment is due before the block's. -/
abbrev State.quiet (s : State) : Prop := envDue s.env = none

/-- The transitions of `phase` that R13 lists. -/
def phaseMove : Phase → Phase → Bool
  | .idle, .selected     => true
  | .selected, .answered => true
  | .answered, .idle     => true
  | .answered, .between  => true
  | .between, .selected  => true
  | _, _                 => false

/-- The register a wire command may change in the peer: a READ moves its payload the other way (R34). -/
def changes : Instr → Option RegAddr
  | .write a _ => some a
  | .read _    => none
  | .incr w    => some w.toReg
  | .decr w    => some w.toReg

/-- Whether an operation's next command is a READ, whose nine data bits are looked at (R111). -/
def looksAtData : Request → Bool
  | .readRegister _     => true
  | .modifyRegister _ _ => true
  | _                   => false

/-- How often an event of a kind was recorded. -/
def countOf (p : Event → Bool) (events : List Event) : Nat := (events.filter p).length

def isAssert : Event → Bool
  | .selAssert => true
  | _          => false

def isDeassert : Event → Bool
  | .selDeassert => true
  | _            => false

def isExchange : Event → Bool
  | .exchange _ _ => true
  | _             => false

/-- The state after a whole bracket opened in `s`, with its block before `cs` and `phase` go back: the
three events of R117, and the environment as a poll leaves it. -/
def bracketed (s : State) (out : List Octet) (ans : Answer) (b : Block) : State :=
  { afterPoll s out with
    block := { b with cs := .deasserted, phase := .idle }
    trace := s.trace ++ [.selAssert, .exchange out ans, .selDeassert] }

/-- The state after a bracket opened in `s` that the far end has not answered (R205). -/
def waitingBracket (s : State) (out : List Octet) (b : Block) : State :=
  { afterPoll s out with
    block := { b with cs := .asserted, phase := .selected }
    trace := s.trace ++ [.selAssert] }

/-- The state after an operation whose only or last bracket opened in `s` (R139, R179): its events, the
block as after reset. -/
def completed (s : State) (out : List Octet) (ans : Answer) (res : Result) : State :=
  { afterPoll s out with
    block := Block.reset
    trace := s.trace ++ [.selAssert, .exchange out ans, .selDeassert, .result res] }

/-- The state after an operation whose only or last bracket was open in `s`, its exchange unanswered till
now (R110, R205): the exchange and all that follows it. -/
def resumed (s : State) (out : List Octet) (ans : Answer) (res : Result) : State :=
  { afterPoll s out with
    block := Block.reset
    trace := s.trace ++ [.exchange out ans, .selDeassert, .result res] }

/-- The state after an operation whose bracket was answered and not yet closed in `s` (R13). -/
def closed (s : State) (res : Result) : State :=
  { s with block := Block.reset, trace := s.trace ++ [.selDeassert, .result res] }

/-- The answer a reply is to an exchange of so many octets (R150); `silent` is none. -/
def answerOf (n : Nat) : Reply → Option Answer
  | .ok r0 r1 => some (.ok ([r0, r1].take n))
  | .fail     => some .fail
  | .silent   => none

end Sys2Proof.Machine
end

