-- ==== Sys2Proof/Certificates/Slice0/Obligations.lean ====
section
/-! DEFINITION. The statements for the provers. R<n> are the numbered rules of spec/, D<n> the spec's own
decisions, log <n> the model's assumption log. -/

open Sys2Proof Sys2Proof.Machine

/-! ### Encoding -/

/-- Tier 3, encoding. Decoding the octets of any wire command gives it back with the octets after it: every
operand, at every value, of all four commands (R52 to R54, R68). The zero bits 1:0 of a READ are the spec's
own D10 (log 22). -/
def Obligations.DecodeOfEncode : Prop :=
  ∀ (i : Instr) (rest : List Octet), decode (encode i ++ rest) = .ok (i, rest)

/-- The other direction: octets that decode are the octets of the command they decode to, so each command
has one encoding and no reserved one falls through to a neighbour (R63 to R66). That the decoder is strict
is the model's choice (log 13). -/
def Obligations.EncodeOfDecode : Prop :=
  ∀ (octets : List Octet) (i : Instr) (rest : List Octet),
    decode octets = .ok (i, rest) → octets = encode i ++ rest

/-- Words written out from R52 to R54 and R63 decode to the command they stand for. Bits 1:0 of the READ are
the spec's own D10 (log 22). -/
def Obligations.DecodeSpecWords : Prop :=
  decodeTableWord 16 0x0100 = some (.write .wiper0 0x100) ∧
  decodeTableWord 16 0x11AB = some (.write .wiper1 0x1AB) ∧
  decodeTableWord 16 0x51F2 = some (.write .status 0x1F2) ∧
  decodeTableWord 16 0x4CFF = some (.read .tcon) ∧
  decodeTableWord 8 0x14 = some (.incr .wiper1) ∧
  decodeTableWord 8 0x08 = some (.decr .wiper0)

/-- R81: the command byte is the address, the opcode and two zero bits. -/
def Obligations.CommandByteComposition : Prop :=
  (∀ op a, cmdByte op a = (zext8 (RegAddr.code a) <<< 4) ||| (zext8 (Opcode.code op) <<< 2) ∧
    cmdByte op a = RegAddr.code a ++ Opcode.code op ++ (0b00 : BitVec 2)) ∧
  cmdByte .write .wiper0 = 0x00 ∧ cmdByte .read .tcon = 0x4C

/-- Octets whose address code is not one of the four (R64), or that address `TCON` or `STATUS` by a short
command (R65), are rejected by the name of the fault, whatever follows. That no request sends them is the
spec's own D15 and D27; the names are the model's (log 13). -/
def Obligations.IllegalAddressesRejected : Prop :=
  ∀ (b0 : Octet) (rest : List Octet),
    (b0.extractLsb' 4 4 ∉ [0x0#4, 0x1#4, 0x4#4, 0x5#4] →
      decode (b0 :: rest) = .error (.unknownAddress (b0.extractLsb' 4 4))) ∧
    (b0.extractLsb' 4 4 ∈ [0x4#4, 0x5#4] → b0.extractLsb' 2 2 ∈ [0b01#2, 0b10#2] →
      decode (b0 :: rest) = .error (.shortOnNonWiper (b0.extractLsb' 4 4)))

/-- R66 and R68: the length is a function of the opcode, bit 1 of the first octet is always 0, and bit 0 is
0 but in a WRITE. Both rules are the spec's own derivations; bits 1:0 of a READ are D10 (log 22). -/
def Obligations.LengthAndZeroBits : Prop :=
  ∀ i : Instr, ∃ t0 more, encode i = t0 :: more ∧ t0.getLsbD 1 = false ∧
    ((t0.extractLsb' 2 2 = 0b01 ∨ t0.extractLsb' 2 2 = 0b10) ↔ more = []) ∧
    ((t0.extractLsb' 2 2 = 0b00 ∨ t0.extractLsb' 2 2 = 0b11) ↔ more.length = 1) ∧
    (t0.extractLsb' 2 2 ≠ 0b00 → t0.getLsbD 0 = false)

/-- R59: the payload of a WRITE is `v[8:0]`, split over bit 0 of the first octet and the second; bits
15:9 of `v` have no effect. -/
def Obligations.WritePayloadMaskedAndSplit : Prop :=
  (∀ (a : RegAddr) (v : Word16),
    encode (commandOf (.writeRegister a v) none) =
      [RegAddr.code a ++ (0b000 : BitVec 3) ++ BitVec.ofBool (v.getLsbD 8), v.extractLsb' 0 8]) ∧
  ∀ (a : RegAddr) (v v' : Word16), v &&& 0x1FF#16 = v' &&& 0x1FF#16 →
    encode (commandOf (.writeRegister a v) none) = encode (commandOf (.writeRegister a v') none)

/-! ### Codecs -/

/-- R97: splitting a payload and joining it again are inverse. -/
def Obligations.SplitJoinInverse : Prop :=
  (∀ d : Data9, split9 d = (d.getLsbD 8, d.extractLsb' 0 8) ∧ join9 (split9 d).1 (split9 d).2 = d) ∧
  (∀ (h : Bit) (l : Octet), join9 h l = BitVec.ofBool h ++ l ∧ split9 (join9 h l) = (h, l)) ∧
  split9 0x100 = (true, 0x00) ∧ split9 0x0FF = (false, 0xFF) ∧ split9 0x1FF = (true, 0xFF) ∧
  split9 0x155 = (true, 0x55)

/-- R82 to R84: the response word is the first octet over the second, its view has the fields of R83
and is lossless both ways. -/
def Obligations.LongResponseViewLossless : Prop :=
  (∀ r0 r1 : Octet, respWord r0 r1 = r0 ++ r1 ∧
    respWord r0 r1 = (zext16 r0 <<< 8) ||| zext16 r1 ∧
    (respWord r0 r1).extractLsb' 8 8 = r0 ∧ (respWord r0 r1).extractLsb' 0 8 = r1) ∧
  (∀ w : Word16, unpackLong w = ⟨w.extractLsb' 10 6, w.getLsbD 9, w.extractLsb' 0 9⟩ ∧
    packLong (unpackLong w) = w) ∧
  (∀ r : LongResp, packLong r = r.reserved ++ BitVec.ofBool r.ack ++ r.data ∧
    unpackLong (packLong r) = r) ∧
  respWord 0xFF 0x00 = 0xFF00 ∧
  unpackLong 0xFF00 = ⟨0b111111, true, 0x100⟩ ∧ unpackLong 0x0000 = ⟨0, false, 0⟩ ∧
  unpackLong 0xFFFF = ⟨0b111111, true, 0x1FF⟩ ∧ unpackLong 0x0200 = ⟨0, true, 0⟩ ∧
  unpackLong 0xFDFF = ⟨0b111111, false, 0x1FF⟩ ∧ packLong ⟨0b111111, true, 0x080⟩ = 0xFE80

/-- R85: the nine-bit extractor, and its three uses: the payload of a long response, the mask of a write, the
wiper position. -/
def Obligations.DataExtractor : Prop :=
  (∀ w : Word16, data9 w = w.extractLsb' 0 9 ∧ data9 w = data9 (w &&& 0x1FF#16) ∧
    zext16 (data9 w) = w &&& Config.dataMask ∧ data9 w = (unpackLong w).data ∧ data9 w = wiperOfValue w) ∧
  (∀ d : Data9, data9 (zext16 d) = d) ∧
  (∀ (a : RegAddr) (v : Word16), commandOf (.writeRegister a v) none = .write a (data9 v)) ∧
  data9 0xFE00 = 0 ∧ data9 0x0100 = 0x100 ∧ data9 0xFFFF = 0x1FF ∧ data9 0xABCD = 0x1CD

/-- R86, R87: the short response's view. -/
def Obligations.ShortResponseViewLossless : Prop :=
  (∀ b : Octet, unpackShort b = ⟨b.extractLsb' 2 6, b.getLsbD 1, b.getLsbD 0⟩ ∧
    packShort (unpackShort b) = b) ∧
  (∀ r : ShortResp, packShort r = r.rsvHi ++ BitVec.ofBool r.ack ++ BitVec.ofBool r.rsvLo ∧
    unpackShort (packShort r) = r) ∧
  unpackShort 0x02 = ⟨0, true, false⟩ ∧ unpackShort 0xFD = ⟨0b111111, false, true⟩ ∧
  unpackShort 0x01 = ⟨0, false, true⟩ ∧ (unpackShort 0xFF).ack = true ∧
  packShort ⟨0b111111, false, true⟩ = 0xFD

/-- R88, R89: the control register view is lossless both ways and pot 0 is the low nibble. The bit of
each flag in its nibble and its polarity are the spec's own decisions D11 and D12 (log 18). -/
def Obligations.TconViewLossless : Prop :=
  (∀ t : Octet, packTcon (unpackTcon t) = t ∧
    packPot (unpackTcon t).pot0 = t.extractLsb' 0 4 ∧ packPot (unpackTcon t).pot1 = t.extractLsb' 4 4 ∧
    (unpackTcon t).pot0 = ⟨t.getLsbD 0, t.getLsbD 1, t.getLsbD 2, t.getLsbD 3⟩ ∧
    (unpackTcon t).pot1 = ⟨t.getLsbD 4, t.getLsbD 5, t.getLsbD 6, t.getLsbD 7⟩) ∧
  (∀ v : TconView, unpackTcon (packTcon v) = v)

/-- R90, R91: reading and replacing one pot's nibble. -/
def Obligations.TconPotLaws : Prop :=
  (∀ t : Octet, tconPot t .pot0 = t.extractLsb' 0 4 ∧ tconPot t .pot1 = t.extractLsb' 4 4 ∧
    tconPot t .pot0 = (t >>> 0).extractLsb' 0 4 ∧ tconPot t .pot1 = (t >>> 4).extractLsb' 0 4) ∧
  (∀ (t : Octet) (n : Nibble), tconWithPot t .pot0 n = t.extractLsb' 4 4 ++ n ∧
    tconWithPot t .pot1 n = n ++ t.extractLsb' 0 4 ∧
    tconPot (tconWithPot t .pot0 n) .pot0 = n ∧ tconPot (tconWithPot t .pot1 n) .pot1 = n ∧
    tconPot (tconWithPot t .pot0 n) .pot1 = tconPot t .pot1 ∧
    tconPot (tconWithPot t .pot1 n) .pot0 = tconPot t .pot0) ∧
  (∀ (t : Octet) (p : Pot), tconWithPot t p (tconPot t p) = t) ∧
  tconPot 0xDF .pot1 = 0xD ∧ tconPot 0xDF .pot0 = 0xF ∧ tconWithPot 0xFF .pot1 0xD = 0xDF

/-- R92, R99, R94: the place of each flag; reading a flag is reading that bit; replacing one flag gives
that flag and leaves every other bit, of the octet and of the 16-bit value. The flag's place is D11, the two
widths' meeting D13 and D14 (log 18). -/
def Obligations.FlagReplacementLeavesOtherBits : Prop :=
  (flagBit .pot0 .termB = 0 ∧ flagBit .pot0 .wiper = 1 ∧ flagBit .pot0 .termA = 2 ∧
    flagBit .pot0 .started = 3 ∧ flagBit .pot1 .termB = 4 ∧ flagBit .pot1 .wiper = 5 ∧
    flagBit .pot1 .termA = 6 ∧ flagBit .pot1 .started = 7) ∧
  (∀ (t : Octet) (p : Pot) (k : TconFlag), tconFlag t p k = t.getLsbD (flagBit p k) ∧
    tconWithFlag t p k (tconFlag t p k) = t) ∧
  (∀ (t : Octet) (p : Pot) (k : TconFlag) (b : Bit), tconFlag (tconWithFlag t p k b) p k = b) ∧
  (∀ (t : Octet) (p : Pot) (k : TconFlag) (b : Bit) (j : Nat),
    (tconWithFlag t p k b).getLsbD j = if j = flagBit p k then b else t.getLsbD j) ∧
  (∀ (v : Word16) (p : Pot) (k : TconFlag) (b : Bit) (j : Nat),
    (applyTransform (.tconFlag p k b) v).getLsbD j = if j = flagBit p k then b else v.getLsbD j) ∧
  (∀ (v : Word16) (b : Bit) (j : Nat),
    (applyTransform (.sregShutdown b) v).getLsbD j = if j = 1 then b else v.getLsbD j) ∧
  tconWithFlag 0xFF .pot1 .wiper false = 0xDF ∧ tconFlag 0x05 .pot0 .wiper = false

/-- R93, R94: the status register view is lossless both ways. The width and the polarity are the spec's own
D14 and D12 (log 18). -/
def Obligations.SregViewLossless : Prop :=
  (∀ s : Word16, unpackSreg s = ⟨s.extractLsb' 2 14, s.getLsbD 1, s.getLsbD 0⟩ ∧
    sregShutdown s = s.getLsbD 1 ∧ packSreg (unpackSreg s) = s) ∧
  (∀ v : SregView, unpackSreg (packSreg v) = v) ∧
  (∀ (s : Word16) (b : Bit), sregShutdown (sregWithShutdown s b) = b) ∧
  (unpackSreg 0x0002).shutdown = true ∧ (unpackSreg 0xFFFD).shutdown = false ∧
  sregShutdown 0x01F2 = true ∧ sregWithShutdown 0x01F0 true = 0x01F2

/-- R95: the wiper value, and no range check: any position is sent as it is. -/
def Obligations.WiperValueUnclamped : Prop :=
  (∀ v : Word16, wiperOfValue v = v.extractLsb' 0 9) ∧
  (∀ p : Data9, valueOfWiper p = zext16 p ∧ wiperOfValue (valueOfWiper p) = p) ∧
  (∀ p : Data9, (valueOfWiper p).extractLsb' 9 7 = 0) ∧
  (∀ (a : RegAddr) (v : Word16), commandOf (.writeRegister a v) none = .write a (wiperOfValue v)) ∧
  (∀ (a : RegAddr) (p : Data9), commandOf (.writeRegister a (valueOfWiper p)) none = .write a p) ∧
  wiperOfValue 0x0200 = 0 ∧ wiperOfValue 0x0100 = 256 ∧ valueOfWiper 256 = 0x0100

/-- R130: the optional-result wrapper, on every answer of the far end. The answer `Fail` is the spec's own
D4. -/
def Obligations.OptionalResultWrapper : Prop :=
  (wrapRead .fail = none ∧ wrapAckLong .fail = false ∧ wrapAckShort .fail = false) ∧
  (∀ r0 r1 : Octet,
    wrapRead (.ok r0 r1) =
      (if (r0 ++ r1).getLsbD 9 then some (zext16 ((r0 ++ r1).extractLsb' 0 9)) else none) ∧
    wrapAckLong (.ok r0 r1) = (r0 ++ r1).getLsbD 9 ∧ wrapAckShort (.ok r0 r1) = r0.getLsbD 1) ∧
  ∀ (r : Reply) (v : Word16), wrapRead r = some v → v.extractLsb' 9 7 = 0

/-- R140: the transform of a request, which this model writes as data (log 10), may be any function. -/
def Obligations.EveryTransformExpressible : Prop :=
  ∀ f : Word16 → Word16, ∃ t : Transform, ∀ v, applyTransform t v = f v

/-! ### The four wire commands -/

/-- R112: WRITE completes in every state in which no bracket is open; the whole next state, for each thing
the far end may do. The latches are the spec's own D5, the one exchange D3, the wait for a silent far end
D18 (logs 3, 7, 22). -/
def Obligations.WriteCommandEffect : Prop :=
  ∀ (a : RegAddr) (d : Data9) (s : State), s.ready →
    let t0 : Octet := RegAddr.code a ++ (0b000 : BitVec 3) ++ BitVec.ofBool (d.getLsbD 8)
    let t1 : Octet := d.extractLsb' 0 8
    let b := { s.block with tx0 := some t0, tx1 := some t1 }
    (∀ r0 r1, farReply s [t0, t1] = .ok r0 r1 →
      exec (.write a d) s = .next (bracketed s [t0, t1] (.ok [r0, r1])
        { b with rx0 := some r0, rx1 := some r1, ack := some (r0.getLsbD 1) })) ∧
    (farReply s [t0, t1] = .fail →
      exec (.write a d) s = .next (bracketed s [t0, t1] .fail { b with ack := some false })) ∧
    (farReply s [t0, t1] = .silent →
      exec (.write a d) s = .next (waitingBracket s [t0, t1] b))

/-- R113: READ, likewise. The data latch is written only when the acknowledgement is 1. The latches, the one
exchange, the wait and bits 1:0 are the spec's own D5, D3, D18, D10 (logs 3, 7, 17, 22). -/
def Obligations.ReadCommandEffect : Prop :=
  ∀ (a : RegAddr) (s : State), s.ready →
    let t0 : Octet := RegAddr.code a ++ (0b1100 : BitVec 4)
    let b := { s.block with tx0 := some t0, tx1 := some 0xFF }
    (∀ r0 r1, farReply s [t0, 0xFF] = .ok r0 r1 →
      exec (.read a) s = .next (bracketed s [t0, 0xFF] (.ok [r0, r1])
        { b with
          rx0 := some r0, rx1 := some r1, ack := some (r0.getLsbD 1)
          data := if r0.getLsbD 1 then some (BitVec.ofBool (r0.getLsbD 0) ++ r1) else s.block.data })) ∧
    (farReply s [t0, 0xFF] = .fail →
      exec (.read a) s = .next (bracketed s [t0, 0xFF] .fail { b with ack := some false })) ∧
    (farReply s [t0, 0xFF] = .silent →
      exec (.read a) s = .next (waitingBracket s [t0, 0xFF] b))

/-- R114: INCR, likewise: one octet each way. The latches, the one exchange and the wait are the spec's own
D5, D3, D18 (logs 3, 7, 22). -/
def Obligations.IncrCommandEffect : Prop :=
  ∀ (w : WiperSel) (s : State), s.ready →
    let t0 : Octet := if w = .wiper0 then 0x04 else 0x14
    let b := { s.block with tx0 := some t0 }
    (∀ r0 r1, farReply s [t0] = .ok r0 r1 →
      exec (.incr w) s = .next (bracketed s [t0] (.ok [r0])
        { b with rx0 := some r0, ack := some (r0.getLsbD 1) })) ∧
    (farReply s [t0] = .fail →
      exec (.incr w) s = .next (bracketed s [t0] .fail { b with ack := some false })) ∧
    (farReply s [t0] = .silent → exec (.incr w) s = .next (waitingBracket s [t0] b))

/-- R115: DECR, likewise: one octet each way. The latches, the one exchange and the wait are the spec's own
D5, D3, D18 (logs 3, 7, 22). -/
def Obligations.DecrCommandEffect : Prop :=
  ∀ (w : WiperSel) (s : State), s.ready →
    let t0 : Octet := if w = .wiper0 then 0x08 else 0x18
    let b := { s.block with tx0 := some t0 }
    (∀ r0 r1, farReply s [t0] = .ok r0 r1 →
      exec (.decr w) s = .next (bracketed s [t0] (.ok [r0])
        { b with rx0 := some r0, ack := some (r0.getLsbD 1) })) ∧
    (farReply s [t0] = .fail →
      exec (.decr w) s = .next (bracketed s [t0] .fail { b with ack := some false })) ∧
    (farReply s [t0] = .silent → exec (.decr w) s = .next (waitingBracket s [t0] b))

/-- What each of the four commands leaves unchanged: the request and `held`; the data latch but for a READ;
`tx1` and `rx1` for a short command; the host's queue and the environment's; the arguments of the reference
peer; and, with the reference peer, every register but the one a WRITE, INCR or DECR addresses. Events are
only added. The latches are the spec's own D5; what a latch not written holds is log 21, the reference peer
log 8. -/
def Obligations.CommandFrame : Prop :=
  ∀ (i : Instr) (s t : State), exec i s = .next t →
    t.block.req = s.block.req ∧ t.block.held = s.block.held ∧
    ((∀ a, i ≠ .read a) → t.block.data = s.block.data) ∧
    ((∃ w, i = .incr w ∨ i = .decr w) → t.block.tx1 = s.block.tx1 ∧ t.block.rx1 = s.block.rx1) ∧
    t.requests = s.requests ∧ t.env = s.env ∧
    t.peer.accept = s.peer.accept ∧ t.peer.wiperMax = s.peer.wiperMax ∧
    (s.far = .reference → t.far = .reference ∧
      ∀ a, changes i ≠ some a → PeerRegs.read t.peer.regs a = PeerRegs.read s.peer.regs a) ∧
    ∃ events, t.trace = s.trace ++ events

/-- U15, R138: a wire command asked for while a bracket is open is refused by name, and only then. The
refusal is the spec's treatment of U15 (log 14). -/
def Obligations.CommandRefusedWhileBracketOpen : Prop :=
  ∀ (i : Instr) (s : State),
    (exec i s = .refused .bracketOpen ↔ s.block.phase = .selected ∨ s.block.phase = .answered) ∧
    (s.ready → ∃ t, exec i s = .next t)

/-! ### The operations of the register API -/

/-- A step runs the command of the request it accepts, or the write-back of `modify_register`: `exec`
between accepting the request and taking the command's result. A step as one bracket is the model's choice
(log 1). -/
def Obligations.StepRunsNextCommand : Prop :=
  (∀ (s : State) (r : Request) (rest : List Request),
    s.block.phase = .idle → s.quiet → s.requests = r :: rest →
      step s = thenDo deliver (exec (commandOf r none) (acceptRequest r s)) ∧
      (acceptRequest r s).block = { Block.reset with req := some r } ∧
      (acceptRequest r s).requests = rest) ∧
  ∀ (s : State) (r : Request), s.block.phase = .between → s.quiet → s.block.req = some r →
    step s = thenDo deliver (exec (commandOf r s.block.held) (takeTurn s)) ∧
    (takeTurn s).block = s.block

/-- A word placed by `withFetchWord` that decodes to an instruction is what the next step runs, in every
state. That a request stands for a fetch is the model's choice (log 12). -/
def Obligations.StepRunsFetchedWord : Prop :=
  ∀ (s : State) (nbits w : Nat) (i : Instr), decodeTableWord nbits w = some i →
    step (s.withFetchWord nbits w) =
      thenDo deliver (exec i (acceptRequest (requestOf i) (s.withFetchWord nbits w)))

/-- R132: `read_register(a)`, answered: one bracket, the value of `wrap_read`, the block as after reset. The
one exchange, its answers and the latches are the spec's own D3, D4, D5 (logs 1, 22). -/
def Obligations.ReadRegisterOperation : Prop :=
  ∀ (s : State) (a : RegAddr) (rest : List Request) (r : Reply) (ans : Answer),
    s.block.phase = .idle → s.env = [] → s.requests = .readRegister a :: rest →
    farReply s [RegAddr.code a ++ (0b1100 : BitVec 4), 0xFF] = r → answerOf 2 r = some ans →
      step s = .next (completed { s with requests := rest }
        [RegAddr.code a ++ (0b1100 : BitVec 4), 0xFF] ans (.value (wrapRead r)))

/-- R133: `write_register(a, v)`, answered. The one exchange, its answers and the latches are the spec's own
D3, D4, D5 (logs 1, 22). -/
def Obligations.WriteRegisterOperation : Prop :=
  ∀ (s : State) (a : RegAddr) (v : Word16) (rest : List Request) (r : Reply) (ans : Answer),
    s.block.phase = .idle → s.env = [] → s.requests = .writeRegister a v :: rest →
    farReply s [RegAddr.code a ++ (0b000 : BitVec 3) ++ BitVec.ofBool (v.getLsbD 8), v.extractLsb' 0 8] = r →
    answerOf 2 r = some ans →
      step s = .next (completed { s with requests := rest }
        [RegAddr.code a ++ (0b000 : BitVec 3) ++ BitVec.ofBool (v.getLsbD 8), v.extractLsb' 0 8] ans
        (.bit (wrapAckLong r)))

/-- R134: `wiper_increment(p)`, answered. The coding of `p` is the spec's own D16; the one exchange, its
answers and the latches D3, D4, D5 (logs 1, 22, 29). -/
def Obligations.WiperIncrementOperation : Prop :=
  ∀ (s : State) (p : Pot) (rest : List Request) (r : Reply) (ans : Answer),
    s.block.phase = .idle → s.env = [] → s.requests = .wiperIncrement p :: rest →
    farReply s [if p = .pot0 then 0x04 else 0x14] = r → answerOf 1 r = some ans →
      step s = .next (completed { s with requests := rest }
        [if p = .pot0 then 0x04 else 0x14] ans (.bit (wrapAckShort r)))

/-- R135: `wiper_decrement(p)`, answered. The coding of `p` is the spec's own D16; the one exchange, its
answers and the latches D3, D4, D5 (logs 1, 22, 29). -/
def Obligations.WiperDecrementOperation : Prop :=
  ∀ (s : State) (p : Pot) (rest : List Request) (r : Reply) (ans : Answer),
    s.block.phase = .idle → s.env = [] → s.requests = .wiperDecrement p :: rest →
    farReply s [if p = .pot0 then 0x08 else 0x18] = r → answerOf 1 r = some ans →
      step s = .next (completed { s with requests := rest }
        [if p = .pot0 then 0x08 else 0x18] ans (.bit (wrapAckShort r)))

/-- R136, the read bracket of `modify_register`: where the read gives `None` the operation is over with
result 0 and one bracket, else the value is held with the bracket closed (D8: the payload widened). The
phase `BETWEEN` is the spec's own D5 (log 1), the read's failure D19. -/
def Obligations.ModifyReadBracket : Prop :=
  ∀ (s : State) (a : RegAddr) (f : Transform) (rest : List Request) (r : Reply) (ans : Answer),
    s.block.phase = .idle → s.env = [] → s.requests = .modifyRegister a f :: rest →
    farReply s [RegAddr.code a ++ (0b1100 : BitVec 4), 0xFF] = r → answerOf 2 r = some ans →
      (wrapRead r = none → step s = .next (completed { s with requests := rest }
        [RegAddr.code a ++ (0b1100 : BitVec 4), 0xFF] ans (.bit false))) ∧
      ∀ v, wrapRead r = some v → ∃ t, step s = .next t ∧
        t.block.phase = .between ∧ t.block.cs = .deasserted ∧ t.block.held = some v ∧
        t.block.req = some (.modifyRegister a f) ∧ t.requests = rest ∧ t.env = [] ∧
        t.trace = s.trace ++ [.selAssert,
          .exchange [RegAddr.code a ++ (0b1100 : BitVec 4), 0xFF] ans, .selDeassert]

/-- R136, the write bracket: `f(held)[8:0]` is sent and the operation returns its acknowledgement. The
phases are the spec's own D5, the one exchange D3 (logs 1, 22). -/
def Obligations.ModifyWriteBracket : Prop :=
  ∀ (s : State) (a : RegAddr) (f : Transform) (v : Word16) (r : Reply) (ans : Answer),
    s.block.phase = .between → s.env = [] → s.block.req = some (.modifyRegister a f) →
    s.block.held = some v →
    let u := applyTransform f v
    let out := [RegAddr.code a ++ (0b000 : BitVec 3) ++ BitVec.ofBool (u.getLsbD 8), u.extractLsb' 0 8]
    farReply s out = r → answerOf 2 r = some ans →
      step s = .next (completed s out ans (.bit (wrapAckLong r)))

/-- R136, R139: the whole of a `modify_register` whose two exchanges are answered, the first by an
acknowledged read: two brackets, in order, and the acknowledgement of the second. What the transform
receives is the spec's own D8 (log 23), the shape of the trace D3 and D24. -/
def Obligations.ModifyRegisterOperation : Prop :=
  ∀ (s : State) (a : RegAddr) (f : Transform) (rest : List Request) (r0 r1 : Octet) (r2 : Reply)
    (replies : List Reply) (ans2 : Answer) (v : Word16),
    s.block.phase = .idle → s.env = [] → s.failNext = false → s.requests = .modifyRegister a f :: rest →
    s.far = .script (.ok r0 r1 :: r2 :: replies) → wrapRead (.ok r0 r1) = some v →
    answerOf 2 r2 = some ans2 →
      ∃ t, Host.Core.run core 2 s = .next t ∧ t.block = Block.reset ∧ t.requests = rest ∧
        t.far = .script replies ∧
        t.trace = s.trace ++
          [.selAssert, .exchange [RegAddr.code a ++ (0b1100 : BitVec 4), 0xFF] (.ok [r0, r1]), .selDeassert,
           .selAssert,
           .exchange [RegAddr.code a ++ (0b000 : BitVec 3) ++ BitVec.ofBool ((applyTransform f v).getLsbD 8),
             (applyTransform f v).extractLsb' 0 8] ans2,
           .selDeassert, .result (.bit (wrapAckLong r2))]

/-- R67, R194: the result of the first bracket of any operation depends on the acknowledgement bit alone,
and on the nine data bits only of an acknowledged READ: two far ends that agree there are not told apart by
the host. A far end given as a list of replies is the model's (log 9). -/
def Obligations.ReservedResponseBitsIgnored : Prop :=
  ∀ (s t t' : State) (r : Request) (rest : List Request) (r0 r1 q0 q1 : Octet),
    s.block.phase = .idle → s.quiet → s.failNext = false → s.requests = r :: rest →
    r0.getLsbD 1 = q0.getLsbD 1 →
    (looksAtData r = true → r0.getLsbD 1 = true → r0.getLsbD 0 = q0.getLsbD 0 ∧ r1 = q1) →
    step { s with far := .script [.ok r0 r1] } = .next t →
    step { s with far := .script [.ok q0 q1] } = .next t' →
      t.block.phase = t'.block.phase ∧ t.block.held = t'.block.held ∧
      (t.block.phase = .idle → ∃ res, t.trace.getLast? = some (.result res) ∧
        t'.trace.getLast? = some (.result res))

/-- R116, R137: a transport failure and a nack give one and the same result, and leave the block, the host's
queue and the environment's the same; only the recorded exchange tells them apart. What the chip then
holds is left open (U9). The answer `Fail` is the spec's own D4; a far end given as a list of replies is the
model's (log 9). -/
def Obligations.NackAndTransportFailureAlike : Prop :=
  ∀ (s t t' : State) (r : Request) (rest : List Request) (r0 r1 : Octet),
    s.block.phase = .idle → s.quiet → s.failNext = false → s.requests = r :: rest →
    r0.getLsbD 1 = false →
    step { s with far := .script [.ok r0 r1] } = .next t →
    step { s with far := .script [.fail] } = .next t' →
      ∃ out in_ res, t.block = t'.block ∧ t.requests = t'.requests ∧ t.env = t'.env ∧
        t.trace = s.trace ++ [.selAssert, .exchange out (.ok in_), .selDeassert, .result res] ∧
        t'.trace = s.trace ++ [.selAssert, .exchange out .fail, .selDeassert, .result res] ∧
        (res = .value none ∨ res = .bit false)

/-- R205, U10: for as many steps as the far end, whichever it is, stays silent when polled, the block stays
where it is, with `cs` asserted: no later request is accepted and no event recorded. A list of replies
(log 9) that has run out stays silent for ever. That the model steps without change there, rather than
having no step, is log 7. -/
def Obligations.UnansweredExchangeHangs : Prop :=
  (∀ (n : Nat) (s : State) (r : Request), s.block.phase = .selected → s.block.req = some r →
    (∀ k < n, ∀ u, Host.Core.run core k s = .next u →
      farReply u (s.block.txOctets (respKind (commandOf r s.block.held))) = .silent) →
      ∃ t, Host.Core.run core n s = .next t ∧ t.block = s.block ∧ t.requests = s.requests ∧
        t.env = s.env ∧ t.trace = s.trace) ∧
  ∀ (n : Nat) (s : State), s.block.phase = .selected → s.block.req.isSome → s.failNext = false →
    s.far = .script [] →
      ∃ t, Host.Core.run core n s = .next t ∧ t.block = s.block ∧ t.requests = s.requests ∧
        t.env = s.env ∧ t.trace = s.trace

/-! ### The environment -/

/-- R158 to R162: what the reference peer answers to each command of the block, and to any command it
cannot place. The peer is a fixture of the spec's own (D22, log 8). -/
def Obligations.ReferencePeerAnswers : Prop :=
  (∀ (p : Peer) (a : RegAddr), p.accept = true →
    p.respond (encode (.read a)) =
      (p, .ok (0xFE#8 ||| zext8 (BitVec.ofBool ((PeerRegs.read p.regs a).getLsbD 8)))
        ((PeerRegs.read p.regs a).extractLsb' 0 8))) ∧
  (∀ (p : Peer) (a : RegAddr) (d : Data9), p.accept = true →
    p.respond (encode (.write a d)) = ({ p with regs := PeerRegs.write p.regs a d }, .ok 0xFF 0xFF)) ∧
  (∀ (p : Peer) (w : WiperSel), p.accept = true →
    let v := PeerRegs.read p.regs w.toReg
    let up := if v < p.wiperMax then v + 1 else v
    let down := if v > 0 then v - 1 else v
    p.respond (encode (.incr w)) = ({ p with regs := PeerRegs.write p.regs w.toReg up }, .ok 0xFF 0xFF) ∧
    p.respond (encode (.decr w)) = ({ p with regs := PeerRegs.write p.regs w.toReg down }, .ok 0xFF 0xFF)) ∧
  (∀ (p : Peer) (out : List Octet), p.accept = false → p.respond out = (p, .ok 0xFD 0xFF)) ∧
  (∀ (p : Peer) (b0 : Octet) (more : List Octet),
    b0.extractLsb' 4 4 ∉ [0x0#4, 0x1#4, 0x4#4, 0x5#4] → p.respond (b0 :: more) = (p, .ok 0xFD 0xFF)) ∧
  ∀ (p : Peer) (b0 : Octet), b0.extractLsb' 4 4 ∈ [0x4#4, 0x5#4] → b0.extractLsb' 2 2 ∈ [0b01#2, 0b10#2] →
    p.respond [b0] = (p, .ok 0xFD 0xFF)

/-- R141, the echo law: with the echo chip, `write_register(a, v)` returns 1 and `read_register(a)` after it
returns `v & 0x01FF`. The echo chip is the fixture D22 (log 8), the shape of the events D3 and D10 (log 22). -/
def Obligations.EchoLaw : Prop :=
  ∀ (s : State) (a : RegAddr) (v : Word16) (rest : List Request),
    s.block.phase = .idle → s.env = [] → s.failNext = false → s.far = .reference →
    s.peer.accept = true → s.requests = .writeRegister a v :: .readRegister a :: rest →
      ∃ t, Host.Core.run core 2 s = .next t ∧ t.block = Block.reset ∧ t.requests = rest ∧
        t.peer = { s.peer with regs := PeerRegs.write s.peer.regs a (data9 v) } ∧
        t.trace = s.trace ++
          [.selAssert,
           .exchange [RegAddr.code a ++ (0b000 : BitVec 3) ++ BitVec.ofBool (v.getLsbD 8), v.extractLsb' 0 8]
             (.ok [0xFF, 0xFF]),
           .selDeassert, .result (.bit true),
           .selAssert,
           .exchange [RegAddr.code a ++ (0b1100 : BitVec 4), 0xFF]
             (.ok [(0b1111111 : BitVec 7) ++ BitVec.ofBool (v.getLsbD 8), v.extractLsb' 0 8]),
           .selDeassert, .result (.value (some (v &&& 0x01FF#16)))]

/-- R155, R160, scenario S8: with the reference peer, any number of increments raises a wiper by that
number up to `WIPER_MAX`, and touches no other register. The clamp is the fixture's (D22, log 8). -/
def Obligations.IncrementsReachTheClamp : Prop :=
  ∀ (n : Nat) (s : State) (p : Pot) (rest : List Request),
    s.block.phase = .idle → s.env = [] → s.failNext = false → s.far = .reference →
    s.peer.accept = true → PeerRegs.read s.peer.regs (potWiper p).toReg ≤ s.peer.wiperMax →
    s.requests = List.replicate n (.wiperIncrement p) ++ rest →
      ∃ t, Host.Core.run core n s = .next t ∧ t.block.phase = .idle ∧ t.requests = rest ∧
        (PeerRegs.read t.peer.regs (potWiper p).toReg).toNat =
          min ((PeerRegs.read s.peer.regs (potWiper p).toReg).toNat + n) s.peer.wiperMax.toNat ∧
        ∀ a, a ≠ (potWiper p).toReg → PeerRegs.read t.peer.regs a = PeerRegs.read s.peer.regs a

/-- R136, R197 on the reference peer, the single-owner case: `modify_register(a, f)` leaves `f` of what the
register held, masked to nine bits, touches no other register and reports success. The peer is the fixture
D22 (log 8), what the transform receives D8 (log 23). -/
def Obligations.ModifyOnTheReferencePeer : Prop :=
  ∀ (s : State) (a : RegAddr) (f : Transform) (rest : List Request),
    s.block.phase = .idle → s.env = [] → s.failNext = false → s.far = .reference →
    s.peer.accept = true → s.requests = .modifyRegister a f :: rest →
      ∃ t, Host.Core.run core 2 s = .next t ∧ t.block = Block.reset ∧ t.requests = rest ∧
        t.trace.getLast? = some (.result (.bit true)) ∧
        t.peer.regs = PeerRegs.write s.peer.regs a
          (data9 (applyTransform f (zext16 (PeerRegs.read s.peer.regs a))))

/-- R116, R172, R178: whatever is requested of a reference peer that nacks, or whose exchange a test fails,
the operation is over after one bracket with the failure value, and the peer is as before (the last
is the fixture's, D22, log 8). -/
def Obligations.FailedOperationsChangeNoRegister : Prop :=
  ∀ (s : State) (r : Request) (rest : List Request),
    s.block.phase = .idle → s.env = [] → s.far = .reference → s.requests = r :: rest →
    (s.peer.accept = false ∨ s.failNext = true) →
      ∃ t out ans res, step s = .next t ∧ t.peer = s.peer ∧ t.block = Block.reset ∧ t.requests = rest ∧
        t.trace = s.trace ++ [.selAssert, .exchange out ans, .selDeassert, .result res] ∧
        (s.failNext = true → ans = .fail) ∧ (res = .value none ∨ res = .bit false)

/-- R42, R195: another actor's write between the two brackets of `modify_register` is lost: the write-back
puts `f(held)` there, with `held` the value read before it, and reports success. Where the other actor moves
is the spec's own D26 (log 16), the peer the fixture D22 (log 8). -/
def Obligations.InterleavedWriteIsLost : Prop :=
  ∀ (s : State) (a : RegAddr) (f : Transform) (v : Word16) (d : Data9),
    s.block.phase = .between → s.block.req = some (.modifyRegister a f) → s.block.held = some v →
    s.env = [.otherWrite a d] → s.far = .reference → s.peer.accept = true → s.failNext = false →
      ∃ t1 t2, step s = .next t1 ∧ PeerRegs.read t1.peer.regs a = d ∧ t1.block = s.block ∧
        step t1 = .next t2 ∧ PeerRegs.read t2.peer.regs a = data9 (applyTransform f v) ∧
        t2.block = Block.reset ∧ t2.trace.getLast? = some (.result (.bit true))

/-- R13, R8(d), D26: while a bracket is open neither the host's queue nor the environment's moves, and a
step that takes a request takes the first, in `IDLE` (R138, R40(c)). D26 is the spec's own; the list of
moves is the model's (log 16). -/
def Obligations.OthersActOnlyBetweenBrackets : Prop :=
  ∀ s t : State, step s = .next t →
    (s.block.phase = .selected ∨ s.block.phase = .answered →
      t.env = s.env ∧ t.requests = s.requests ∧ t.peer.accept = s.peer.accept) ∧
    (t.requests = s.requests ∨ (s.block.phase = .idle ∧ ∃ r, s.requests = r :: t.requests)) ∧
    ((∃ m, envDue s.env = some m) → s.ready → t.block = s.block ∧ t.trace = s.trace)

/-! ### Invariants and whole-machine rules -/

/-- R22, R190 (the spec's own decision D6, log 4): the block after reset. -/
def Obligations.ResetBlock : Prop :=
  State.reset.block = ⟨.deasserted, .idle, none, none, none, none, none, none, none, none⟩ ∧
  State.reset.far = .oracle ∧ State.reset.trace = []

/-- The invariant holds at reset. The reset values are the spec's own D6 (log 4). -/
def Obligations.ResetMeetsInvariant : Prop := State.reset.Inv

/-- Tier 3. The invariant of every run is kept by every step: the latches agree with the phase, `cs` is
asserted exactly while a bracket is open, the block is as after reset whenever it is idle (R11 to R13,
R179), and the events recorded are well-bracketed (R110, R139, R151). The phases and latches are the spec's
own D5, D6 (logs 3, 4). -/
def Obligations.StepKeepsInvariant : Prop :=
  ∀ s t : State, s.Inv → step s = .next t → t.Inv

/-- R11, R13: in every state that meets the invariant `cs` is asserted in exactly the phases `SELECTED` and
`ANSWERED`, and while it is deasserted as many deassertions as assertions are recorded. The phases are the
spec's own D5. -/
def Obligations.ChipSelectFollowsPhase : Prop :=
  ∀ s : State, s.Inv → s.block.cs = selectOf s.block.phase ∧
    (s.block.cs = .deasserted → countOf isAssert s.trace = countOf isDeassert s.trace) ∧
    (s.block.cs = .asserted → countOf isAssert s.trace = countOf isDeassert s.trace + 1)

/-- R170: the block never raises, traps or aborts: from every state that meets the invariant a step
answers a next state. A far end that has not answered is a step that changes nothing of the block (log 7).
-/
def Obligations.StepAlwaysAnswersNext : Prop :=
  ∀ s : State, s.Inv → ∃ t, step s = .next t

/-- R110, R139, R151: in every state that meets the invariant each assertion recorded has had exactly one
exchange and one deassertion, but for those the open bracket still owes; and a step that ends with no
bracket open has added, if it had a bracket to open or to close, exactly one deassertion and never a second.
One exchange in a bracket is the spec's own D3 (log 22). -/
def Obligations.DeassertedExactlyOnce : Prop :=
  (∀ s : State, s.Inv →
    ((s.block.phase = .idle ∨ s.block.phase = .between) →
      countOf isDeassert s.trace = countOf isAssert s.trace ∧
      countOf isExchange s.trace = countOf isAssert s.trace) ∧
    (s.block.phase = .selected → countOf isDeassert s.trace + 1 = countOf isAssert s.trace ∧
      countOf isExchange s.trace + 1 = countOf isAssert s.trace) ∧
    (s.block.phase = .answered → countOf isDeassert s.trace + 1 = countOf isAssert s.trace ∧
      countOf isExchange s.trace = countOf isAssert s.trace)) ∧
  ∀ s t : State, s.Inv → step s = .next t →
    ∃ events, t.trace = s.trace ++ events ∧
      countOf isAssert events ≤ 1 ∧ countOf isExchange events ≤ 1 ∧ countOf isDeassert events ≤ 1 ∧
      (t.block.cs = .deasserted → (s.block.cs = .asserted ∨ countOf isAssert events = 1) →
        countOf isDeassert events = 1)

/-- R13: each step is between one and three of the phase transitions of the fine-grained
machine. The phases are the spec's own D5; a step as one bracket is the model's choice (log 1). -/
def Obligations.StepIsPhaseTransitions : Prop :=
  ∀ s t : State, step s = .next t → ∃ n, 1 ≤ n ∧ n ≤ 3 ∧ microSteps n s = .next t

/-- R13: the fine-grained machine moves `phase` only along the transitions of R13, and changes the block
in no other way. (The phases are the spec's own decision D5.) -/
def Obligations.PhaseTransitionsOfTheSpec : Prop :=
  ∀ s t : State, microStep s = .next t →
    t.block = s.block ∨ phaseMove s.block.phase t.block.phase = true

/-! ### Brackets that were left open -/

/-- R132, R133, R110, R205: `read_register` and `write_register` whose exchange, unanswered till now, is
answered: the answer is recorded, the bracket closed, the result handed over, the block as after reset. The
phase is the spec's own D5, the one exchange D3, the late answer D18 (logs 7, 22). -/
def Obligations.ResumedLongOperations : Prop :=
  ∀ (s : State) (a : RegAddr) (r : Reply) (ans : Answer),
    s.Inv → s.block.phase = .selected → answerOf 2 r = some ans →
    (s.block.req = some (.readRegister a) →
      farReply s [RegAddr.code a ++ (0b1100 : BitVec 4), 0xFF] = r →
        step s = .next (resumed s [RegAddr.code a ++ (0b1100 : BitVec 4), 0xFF] ans (.value (wrapRead r)))) ∧
    ∀ v : Word16, s.block.req = some (.writeRegister a v) →
      farReply s [RegAddr.code a ++ (0b000 : BitVec 3) ++ BitVec.ofBool (v.getLsbD 8), v.extractLsb' 0 8] = r →
        step s = .next (resumed s
          [RegAddr.code a ++ (0b000 : BitVec 3) ++ BitVec.ofBool (v.getLsbD 8), v.extractLsb' 0 8] ans
          (.bit (wrapAckLong r)))

/-- R134, R135, R110, R205: `wiper_increment` and `wiper_decrement`, likewise. The coding of `p` is the spec's
own D16, the phase D5, the one exchange D3, the late answer D18 (logs 7, 22, 29). -/
def Obligations.ResumedShortOperations : Prop :=
  ∀ (s : State) (p : Pot) (r : Reply) (ans : Answer),
    s.Inv → s.block.phase = .selected → answerOf 1 r = some ans →
    (s.block.req = some (.wiperIncrement p) → farReply s [if p = .pot0 then 0x04 else 0x14] = r →
      step s = .next (resumed s [if p = .pot0 then 0x04 else 0x14] ans (.bit (wrapAckShort r)))) ∧
    (s.block.req = some (.wiperDecrement p) → farReply s [if p = .pot0 then 0x08 else 0x18] = r →
      step s = .next (resumed s [if p = .pot0 then 0x08 else 0x18] ans (.bit (wrapAckShort r))))

/-- R136, R110, R205: both brackets of `modify_register`, likewise: the read ends the operation with 0 or is
held with the bracket closed, the write-back returns its acknowledgement. The phases are the spec's own
D5, what is held D8, the failing read D19, the late answer D18 (logs 7, 22, 23). -/
def Obligations.ResumedModifyRegister : Prop :=
  ∀ (s : State) (a : RegAddr) (f : Transform) (r : Reply) (ans : Answer),
    s.Inv → s.block.phase = .selected → s.block.req = some (.modifyRegister a f) → answerOf 2 r = some ans →
    (s.block.held = none → farReply s [RegAddr.code a ++ (0b1100 : BitVec 4), 0xFF] = r →
      (wrapRead r = none →
        step s = .next (resumed s [RegAddr.code a ++ (0b1100 : BitVec 4), 0xFF] ans (.bit false))) ∧
      ∀ v, wrapRead r = some v → ∃ t, step s = .next t ∧
        t.block.phase = .between ∧ t.block.cs = .deasserted ∧ t.block.held = some v ∧
        t.block.req = some (.modifyRegister a f) ∧ t.requests = s.requests ∧ t.env = s.env ∧
        t.trace = s.trace ++ [.exchange [RegAddr.code a ++ (0b1100 : BitVec 4), 0xFF] ans, .selDeassert]) ∧
    ∀ v, s.block.held = some v →
      let u := applyTransform f v
      let out := [RegAddr.code a ++ (0b000 : BitVec 3) ++ BitVec.ofBool (u.getLsbD 8), u.extractLsb' 0 8]
      farReply s out = r → step s = .next (resumed s out ans (.bit (wrapAckLong r)))

/-- R13, R110: a bracket that is answered and still open is closed by the next step, whose result is what
the latches hold; the far end is not asked again. The phase and the latches are the spec's own D5. -/
def Obligations.AnsweredBracketCloses : Prop :=
  ∀ (s : State) (k : Bit), s.block.phase = .answered → s.block.ack = some k →
    (∀ a, s.block.req = some (.readRegister a) →
      step s = .next (closed s (.value (if k then s.block.data.map zext16 else none)))) ∧
    (∀ r, s.block.req = some r → looksAtData r = false → step s = .next (closed s (.bit k))) ∧
    ∀ a f, s.block.req = some (.modifyRegister a f) →
      (s.block.held.isSome → step s = .next (closed s (.bit k))) ∧
      (s.block.held = none → k = false → step s = .next (closed s (.bit false))) ∧
      ∀ d, s.block.held = none → k = true → s.block.data = some d →
        step s = .next { s with
          block := { s.block with cs := .deasserted, phase := .between, held := some (zext16 d) }
          trace := s.trace ++ [.selDeassert] }
end

