-- ==== Sys2Proof/Laws/Codec.lean ====
section
/-! SUPPORT. Small laws of the encoders' and decoders' fields, of the reference peer's registers and of
the acknowledgement, which later proofs cite instead of unfolding them. -/

namespace Sys2Proof

/-- Every instruction is well-formed: the types leave no ill-formed one (R64, R65). -/
theorem Instr.wellFormed_all (i : Instr) : i.wellFormed = true := by
  rcases i with ⟨a, d⟩ | ⟨a⟩ | ⟨w⟩ | ⟨w⟩
  · cases a <;>
      simp [Instr.wellFormed, Instr.frame, Frame.wellFormed, Frame.addrKnown, Frame.shortOnWiper,
        Frame.isShort, Frame.lengthFits, Frame.zeroBits, Frame.fillerFits, RegAddr.code, Opcode.code]
  · cases a <;> decide
  · cases w <;> decide
  · cases w <;> decide

@[simp] theorem RegAddr.ofCode_code (a : RegAddr) : RegAddr.ofCode a.code = some a := by
  cases a <;> rfl

@[simp] theorem RegAddr.toWiper_toReg (w : WiperSel) : w.toReg.toWiper = some w := by
  cases w <;> rfl

@[simp] theorem Opcode.ofCode_code (o : Opcode) : Opcode.ofCode o.code = o := by
  cases o <;> rfl

/-- A code that names a register is that register's (R6). -/
theorem RegAddr.code_of_ofCode {c : BitVec 4} {a : RegAddr} (h : RegAddr.ofCode c = some a) :
    a.code = c := by
  revert c; cases a <;> decide

@[simp] theorem addrField_cmdByte (o : Opcode) (a : RegAddr) : addrField (cmdByte o a) = a.code := by
  cases o <;> cases a <;> rfl

@[simp] theorem opField_cmdByte (o : Opcode) (a : RegAddr) : opField (cmdByte o a) = o.code := by
  cases o <;> cases a <;> rfl

namespace Machine

/-- The mask of a value that has nine bits changes nothing (R85). -/
@[simp] theorem data9_zext16 (d : Data9) : data9 (zext16 d) = d := by
  ext i hi
  simp [data9, hi]
  omega

@[simp] theorem commandOf_requestOf (i : Instr) : commandOf (requestOf i) none = i := by
  rcases i with ⟨a, d⟩ | ⟨a⟩ | ⟨_ | _⟩ | ⟨_ | _⟩ <;> simp [requestOf, commandOf, potWiper]

/-- The acknowledgement of a long response is bit 1 of its first octet (R56). -/
@[simp] theorem ackLong_eq (r0 r1 : Octet) : ackLong r0 r1 = r0.getLsbD 1 :=
  BitVec.getLsbD_append (x := r0) (y := r1) (i := 9)

@[simp] theorem ackShort_eq (r0 : Octet) : ackShort r0 = r0.getLsbD 1 := rfl

/-- The payload of a long response is bit 0 of its first octet over its second (R56). -/
theorem longData_eq (r0 r1 : Octet) : longData r0 r1 = BitVec.ofBool (r0.getLsbD 0) ++ r1 := by
  apply BitVec.eq_of_getLsbD_eq
  intro i hi
  have left := BitVec.getLsbD_append (x := r0) (y := r1) (i := i)
  have right := BitVec.getLsbD_append (x := BitVec.ofBool (r0.getLsbD 0)) (y := r1) (i := i)
  have field : (longData r0 r1).getLsbD i = (r0 ++ r1).getLsbD i := by
    simp [longData, unpackLong, respWord, data9, hi]
  rw [field, left]
  refine Eq.trans ?_ right.symm
  by_cases h8 : i < 8
  · simp [h8]
  · obtain rfl : i = 8 := by omega
    simp

section regs
variable (g : PeerRegs)

@[simp] theorem PeerRegs.read_write_same (a : RegAddr) (d : Data9) :
    PeerRegs.read (PeerRegs.write g a d) a = d := by
  cases a <;> rfl

/-- A write leaves every other register alone. -/
theorem PeerRegs.read_write_other {a b : RegAddr} (d : Data9) (h : b ≠ a) :
    PeerRegs.read (PeerRegs.write g a d) b = PeerRegs.read g b := by
  cases a <;> cases b <;> first | rfl | exact absurd rfl h

end regs

end Machine

end Sys2Proof
end

