-- ==== Sys2Proof/Laws/State.lean ====
section
/-! SUPPORT. One lemma per field per update of the state, so that no proof unfolds a record update. -/

namespace Sys2Proof.Machine

section record
variable (s : State) (e : Event)
@[simp] theorem State.record_block : (s.record e).block = s.block := rfl
@[simp] theorem State.record_requests : (s.record e).requests = s.requests := rfl
@[simp] theorem State.record_env : (s.record e).env = s.env := rfl
@[simp] theorem State.record_far : (s.record e).far = s.far := rfl
@[simp] theorem State.record_peer : (s.record e).peer = s.peer := rfl
@[simp] theorem State.record_failNext : (s.record e).failNext = s.failNext := rfl
@[simp] theorem State.record_polls : (s.record e).polls = s.polls := rfl
@[simp] theorem State.record_trace : (s.record e).trace = s.trace ++ [e] := rfl
end record

section withBlock
variable (s : State) (b : Block)
@[simp] theorem State.withBlock_block : (s.withBlock b).block = b := rfl
@[simp] theorem State.withBlock_requests : (s.withBlock b).requests = s.requests := rfl
@[simp] theorem State.withBlock_env : (s.withBlock b).env = s.env := rfl
@[simp] theorem State.withBlock_far : (s.withBlock b).far = s.far := rfl
@[simp] theorem State.withBlock_peer : (s.withBlock b).peer = s.peer := rfl
@[simp] theorem State.withBlock_failNext : (s.withBlock b).failNext = s.failNext := rfl
@[simp] theorem State.withBlock_polls : (s.withBlock b).polls = s.polls := rfl
@[simp] theorem State.withBlock_trace : (s.withBlock b).trace = s.trace := rfl
end withBlock

section afterPoll
variable (s : State) (out : List Octet)
@[simp] theorem afterPoll_block : (afterPoll s out).block = s.block := rfl
@[simp] theorem afterPoll_requests : (afterPoll s out).requests = s.requests := rfl
@[simp] theorem afterPoll_env : (afterPoll s out).env = s.env := rfl
@[simp] theorem afterPoll_far : (afterPoll s out).far = s.far.afterPoll := rfl
@[simp] theorem afterPoll_peer : (afterPoll s out).peer = peerAfter s out := rfl
@[simp] theorem afterPoll_failNext : (afterPoll s out).failNext = false := rfl
@[simp] theorem afterPoll_polls : (afterPoll s out).polls = s.polls + 1 := rfl
@[simp] theorem afterPoll_trace : (afterPoll s out).trace = s.trace := rfl
end afterPoll

section openBracket
variable (out : List Octet) (s : State)
@[simp] theorem openBracket_block : (openBracket out s).block =
    { s.block.loadTx out with cs := .asserted, phase := .selected } := rfl
@[simp] theorem openBracket_requests : (openBracket out s).requests = s.requests := rfl
@[simp] theorem openBracket_env : (openBracket out s).env = s.env := rfl
@[simp] theorem openBracket_far : (openBracket out s).far = s.far := rfl
@[simp] theorem openBracket_peer : (openBracket out s).peer = s.peer := rfl
@[simp] theorem openBracket_failNext : (openBracket out s).failNext = s.failNext := rfl
@[simp] theorem openBracket_polls : (openBracket out s).polls = s.polls := rfl
@[simp] theorem openBracket_trace : (openBracket out s).trace = s.trace ++ [.selAssert] := rfl
end openBracket

section selDeassert
variable (s : State)
@[simp] theorem selDeassert_block :
    (selDeassert s).block = { s.block with cs := .deasserted, phase := .idle } := rfl
@[simp] theorem selDeassert_requests : (selDeassert s).requests = s.requests := rfl
@[simp] theorem selDeassert_env : (selDeassert s).env = s.env := rfl
@[simp] theorem selDeassert_far : (selDeassert s).far = s.far := rfl
@[simp] theorem selDeassert_peer : (selDeassert s).peer = s.peer := rfl
@[simp] theorem selDeassert_failNext : (selDeassert s).failNext = s.failNext := rfl
@[simp] theorem selDeassert_polls : (selDeassert s).polls = s.polls := rfl
@[simp] theorem selDeassert_trace : (selDeassert s).trace = s.trace ++ [.selDeassert] := rfl
end selDeassert

section finish
variable (r : Result) (s : State)
@[simp] theorem finish_block : (finish r s).block = Block.reset := rfl
@[simp] theorem finish_requests : (finish r s).requests = s.requests := rfl
@[simp] theorem finish_env : (finish r s).env = s.env := rfl
@[simp] theorem finish_far : (finish r s).far = s.far := rfl
@[simp] theorem finish_peer : (finish r s).peer = s.peer := rfl
@[simp] theorem finish_failNext : (finish r s).failNext = s.failNext := rfl
@[simp] theorem finish_polls : (finish r s).polls = s.polls := rfl
@[simp] theorem finish_trace : (finish r s).trace = s.trace ++ [.result r] := rfl
end finish

section acceptRequest
variable (r : Request) (s : State)
@[simp] theorem acceptRequest_block :
    (acceptRequest r s).block = { Block.reset with req := some r } := rfl
@[simp] theorem acceptRequest_env : (acceptRequest r s).env = (takeTurn s).env := rfl
end acceptRequest

section takeTurn
variable (s : State)
/-- Taking a turn touches the environment's moves only. -/
theorem takeTurn_eq : takeTurn s = { s with env := (takeTurn s).env } := by
  rcases s with ⟨b, q, env, f, p, n, k, t⟩
  rcases env with _ | ⟨m, rest⟩
  · rfl
  · cases m <;> rfl
@[simp] theorem takeTurn_block : (takeTurn s).block = s.block := by rw [takeTurn_eq]
@[simp] theorem takeTurn_requests : (takeTurn s).requests = s.requests := by rw [takeTurn_eq]
@[simp] theorem takeTurn_far : (takeTurn s).far = s.far := by rw [takeTurn_eq]
@[simp] theorem takeTurn_peer : (takeTurn s).peer = s.peer := by rw [takeTurn_eq]
@[simp] theorem takeTurn_failNext : (takeTurn s).failNext = s.failNext := by rw [takeTurn_eq]
@[simp] theorem takeTurn_polls : (takeTurn s).polls = s.polls := by rw [takeTurn_eq]
@[simp] theorem takeTurn_trace : (takeTurn s).trace = s.trace := by rw [takeTurn_eq]
/-- Where the environment has no move to make, its turn is over at once. -/
theorem takeTurn_of_env_nil (h : s.env = []) : takeTurn s = s := by simp [takeTurn, h]
@[simp] theorem acceptRequest_requests (r : Request) :
    (acceptRequest r s).requests = s.requests.tail := by simp [acceptRequest]
@[simp] theorem acceptRequest_far (r : Request) : (acceptRequest r s).far = s.far := by
  simp [acceptRequest]
@[simp] theorem acceptRequest_peer (r : Request) : (acceptRequest r s).peer = s.peer := by
  simp [acceptRequest]
@[simp] theorem acceptRequest_failNext (r : Request) : (acceptRequest r s).failNext = s.failNext := by
  simp [acceptRequest]
@[simp] theorem acceptRequest_polls (r : Request) : (acceptRequest r s).polls = s.polls := by
  simp [acceptRequest]
@[simp] theorem acceptRequest_trace (r : Request) : (acceptRequest r s).trace = s.trace := by
  simp [acceptRequest]
end takeTurn

section thenDo
variable (f : State → State)
@[simp] theorem thenDo_next (s : State) : thenDo f (.next s) = .next (f s) := rfl
@[simp] theorem thenDo_refused (r : Refusal) : thenDo f (.refused r) = .refused r := rfl
/-- What follows a command happens only where the command answered a next state. -/
theorem thenDo_eq_next {f : State → State} {o : Host.Outcome State Fault Refusal} {t : State} (h : thenDo f o = .next t) :
    ∃ s, o = .next s ∧ f s = t := by
  cases o <;> simp_all [thenDo]
end thenDo

end Sys2Proof.Machine
end

