-- ==== Sys2Proof/Laws/Ops.lean ====
section
/-! SUPPORT. One spec lemma per shared operation: everything it can do. -/

namespace Sys2Proof.Machine

/-- What a far end does depends on the environment's fields alone. -/
theorem farReply_congr {s s' : State} (out : List Octet) (h1 : s'.failNext = s.failNext)
    (h2 : s'.far = s.far) (h3 : s'.polls = s.polls) (h4 : s'.peer = s.peer) :
    farReply s' out = farReply s out := by
  simp [farReply, h1, h2, h3, h4]

theorem peerAfter_congr {s s' : State} (out : List Octet) (h1 : s'.failNext = s.failNext)
    (h2 : s'.far = s.far) (h3 : s'.polls = s.polls) (h4 : s'.peer = s.peer) :
    peerAfter s' out = peerAfter s out := by
  simp [peerAfter, chipAfter, farReply, h1, h2, h3, h4]

@[simp] theorem farReply_openBracket (o out : List Octet) (s : State) :
    farReply (openBracket o s) out = farReply s out :=
  farReply_congr out rfl rfl rfl rfl

@[simp] theorem peerAfter_openBracket (o out : List Octet) (s : State) :
    peerAfter (openBracket o s) out = peerAfter s out :=
  peerAfter_congr out rfl rfl rfl rfl

@[simp] theorem farReply_acceptRequest (r : Request) (out : List Octet) (s : State) :
    farReply (acceptRequest r s) out = farReply s out :=
  farReply_congr out (by simp) (by simp) (by simp) (by simp)

@[simp] theorem peerAfter_acceptRequest (r : Request) (out : List Octet) (s : State) :
    peerAfter (acceptRequest r s) out = peerAfter s out :=
  peerAfter_congr out (by simp) (by simp) (by simp) (by simp)

@[simp] theorem farReply_withRequests (q : List Request) (out : List Octet) (s : State) :
    farReply { s with requests := q } out = farReply s out := rfl

@[simp] theorem peerAfter_withRequests (q : List Request) (out : List Octet) (s : State) :
    peerAfter { s with requests := q } out = peerAfter s out := rfl

@[simp] theorem chipAfter_accept (s : State) (out : List Octet) :
    (chipAfter s out).accept = s.peer.accept := rfl

@[simp] theorem chipAfter_wiperMax (s : State) (out : List Octet) :
    (chipAfter s out).wiperMax = s.peer.wiperMax := rfl

/-- `Exchange` sends the octets the encoder wrote (R12). -/
theorem txOctets_loadTx (i : Instr) (b : Block) :
    (b.loadTx (encode i)).txOctets (respKind i) = encode i := by
  cases i <;> rfl

theorem poll_silent {k : RespKind} {s : State} (h : farReply s (s.block.txOctets k) = .silent) :
    poll k s = afterPoll s (s.block.txOctets k) := by
  simp [poll, h]

theorem poll_fail {k : RespKind} {s : State} (h : farReply s (s.block.txOctets k) = .fail) :
    poll k s = ((afterPoll s (s.block.txOctets k)).withBlock
      { s.block with ack := some false, phase := .answered }).record
      (.exchange (s.block.txOctets k) .fail) := by
  simp [poll, h]

theorem poll_ok {k : RespKind} {s : State} {r0 r1 : Octet}
    (h : farReply s (s.block.txOctets k) = .ok r0 r1) :
    poll k s = ((afterPoll s (s.block.txOctets k)).withBlock
      { s.block.latchResponse k r0 r1 with phase := .answered }).record
      (.exchange (s.block.txOctets k) (.ok (received k r0 r1))) := by
  simp [poll, h]

/-- Everything a poll can do: nothing to the block, or a `Fail` latched, or a response latched. -/
theorem poll_cases (k : RespKind) (s : State) :
    (farReply s (s.block.txOctets k) = .silent ∧ poll k s = afterPoll s (s.block.txOctets k)) ∨
    (farReply s (s.block.txOctets k) = .fail ∧
      poll k s = ((afterPoll s (s.block.txOctets k)).withBlock
        { s.block with ack := some false, phase := .answered }).record
        (.exchange (s.block.txOctets k) .fail)) ∨
    ∃ r0 r1, farReply s (s.block.txOctets k) = .ok r0 r1 ∧
      poll k s = ((afterPoll s (s.block.txOctets k)).withBlock
        { s.block.latchResponse k r0 r1 with phase := .answered }).record
        (.exchange (s.block.txOctets k) (.ok (received k r0 r1))) := by
  cases h : farReply s (s.block.txOctets k) with
  | silent => exact .inl ⟨rfl, poll_silent h⟩
  | fail => exact .inr (.inl ⟨rfl, poll_fail h⟩)
  | ok r0 r1 => exact .inr (.inr ⟨r0, r1, rfl, poll_ok h⟩)

/-- A bracket resumed in `SELECTED`: it waits on, or it is polled and closed. -/
theorem resumeBracket_cases (k : RespKind) (s : State) (hp : s.block.phase = .selected) :
    (farReply s (s.block.txOctets k) = .silent ∧ resumeBracket k s = afterPoll s (s.block.txOctets k)) ∨
    ((poll k s).block.phase = .answered ∧ resumeBracket k s = selDeassert (poll k s)) := by
  obtain ⟨h, e⟩ | ⟨_, e⟩ | ⟨_, _, _, e⟩ := poll_cases k s
  · exact .inl ⟨h, by simp [resumeBracket, e, hp]⟩
  · exact .inr ⟨by simp [e], by simp [resumeBracket, e]⟩
  · exact .inr ⟨by simp [e], by simp [resumeBracket, e]⟩

/-- A wire command answers a next state exactly where no bracket is open, and it is its bracket. -/
theorem runCommand_of_ready {s : State} (h : s.ready) (out : List Octet) (k : RespKind) :
    runCommand out k s = .next (transact out k s) := by
  rcases h with h | h <;> simp [runCommand, h]

theorem runCommand_eq_next {out : List Octet} {k : RespKind} {s t : State}
    (h : runCommand out k s = .next t) : s.ready ∧ t = transact out k s := by
  cases hp : s.block.phase <;> simp [runCommand, hp] at h
  · exact ⟨.inl hp, h.symm⟩
  · exact ⟨.inr hp, h.symm⟩

/-- The four meanings are one: the command's octets and its decoder in one bracket. -/
theorem exec_eq_runCommand (i : Instr) (s : State) :
    exec i s = runCommand (encode i) (respKind i) s := by
  cases i <;> rfl

/-- Taking the result of a command whose bracket is open does nothing. -/
theorem deliver_of_not_idle {s : State} (h : s.block.phase ≠ .idle) : deliver s = s := by
  cases hp : s.block.phase <;> simp_all [deliver]

/-- What `deliver` does with a command that has a result, by its operation. -/
theorem deliver_cases {s : State} {r : Request} {ack : Bit} (hp : s.block.phase = .idle)
    (hr : s.block.req = some r) (ha : s.block.ack = some ack) :
    (∃ res, deliver s = finish res s) ∨
    ∃ a f v, r = .modifyRegister a f ∧ s.block.held = none ∧ readResult ack s.block.data = some v ∧
      deliver s = s.withBlock { s.block with phase := .between, held := some v } := by
  cases r with
  | modifyRegister a f =>
    cases hh : s.block.held with
    | some v => exact .inl ⟨.bit ack, by simp [deliver, hp, hr, ha, hh]⟩
    | none =>
      cases hv : readResult ack s.block.data with
      | none => exact .inl ⟨.bit false, by simp [deliver, hp, hr, ha, hh, hv]⟩
      | some v => exact .inr ⟨a, f, v, rfl, rfl, rfl, by simp [deliver, hp, hr, ha, hh, hv]⟩
  | readRegister a =>
    exact .inl ⟨.value (readResult ack s.block.data), by simp [deliver, hp, hr, ha]⟩
  | writeRegister a v => exact .inl ⟨.bit ack, by simp [deliver, hp, hr, ha]⟩
  | wiperIncrement p => exact .inl ⟨.bit ack, by simp [deliver, hp, hr, ha]⟩
  | wiperDecrement p => exact .inl ⟨.bit ack, by simp [deliver, hp, hr, ha]⟩

/-- Taking a result records at most that result. -/
theorem deliver_trace (s : State) :
    (deliver s).trace = s.trace ∨ ∃ r, (deliver s).trace = s.trace ++ [.result r] := by
  unfold deliver
  split
  · split <;> (try split) <;> (try split) <;> simp [finish]
  · simp

/-- In `SELECTED` the step resumes the bracket of the command in flight (R13, R205). -/
theorem step_of_selected {s : State} {r : Request} (hp : s.block.phase = .selected)
    (hr : s.block.req = some r) :
    step s = .next (deliver (resumeBracket (respKind (commandOf r s.block.held)) s)) := by
  simp [step, nextAction, hp, hr]

/-- A far end that stays silent leaves the bracket open (R205, log 7). -/
theorem step_of_silent {s : State} {r : Request} (hp : s.block.phase = .selected)
    (hr : s.block.req = some r)
    (h : farReply s (s.block.txOctets (respKind (commandOf r s.block.held))) = .silent) :
    step s = .next (afterPoll s (s.block.txOctets (respKind (commandOf r s.block.held)))) := by
  rw [step_of_selected hp hr, resumeBracket, poll_silent h]
  simp [hp, deliver]

/-- In `SELECTED`, in a state that meets the invariant, the latches hold the octets of the command that
the request sends next (R12). -/
theorem State.Inv.txOctets {s : State} {r : Request} (hs : s.Inv) (hp : s.block.phase = .selected)
    (hr : s.block.req = some r) :
    s.block.txOctets (respKind (commandOf r s.block.held)) = encode (commandOf r s.block.held) := by
  obtain ⟨hc, _⟩ := hs
  rw [Block.consistent, hp] at hc
  obtain ⟨_, _, i, ⟨r', h1, rfl⟩, h2⟩ := hc
  rw [hr] at h1; cases h1; exact h2

/-! ### The bracket -/

/-- The latches the encoder fills, while the bracket opens, hold the command's octets (R12). -/
theorem txOctets_openBracket (i : Instr) (s : State) :
    (openBracket (encode i) s).block.txOctets (respKind i) = encode i := by
  cases i <;> rfl

theorem transact_silent {i : Instr} {s : State} (h : farReply s (encode i) = .silent) :
    transact (encode i) (respKind i) s =
      waitingBracket s (encode i) (s.block.loadTx (encode i)) := by
  have h' : farReply (openBracket (encode i) s)
      ((openBracket (encode i) s).block.txOctets (respKind i)) = .silent := by
    rw [txOctets_openBracket]; simpa using h
  rw [transact, resumeBracket, poll_silent h', txOctets_openBracket]
  simp [waitingBracket, afterPoll]

theorem transact_fail {i : Instr} {s : State} (h : farReply s (encode i) = .fail) :
    transact (encode i) (respKind i) s =
      bracketed s (encode i) .fail { s.block.loadTx (encode i) with ack := some false } := by
  have h' : farReply (openBracket (encode i) s)
      ((openBracket (encode i) s).block.txOctets (respKind i)) = .fail := by
    rw [txOctets_openBracket]; simpa using h
  rw [transact, resumeBracket, poll_fail h', txOctets_openBracket]
  simp [bracketed, afterPoll, selDeassert, State.record, State.withBlock]

theorem transact_ok {i : Instr} {s : State} {r0 r1 : Octet} (h : farReply s (encode i) = .ok r0 r1) :
    transact (encode i) (respKind i) s =
      bracketed s (encode i) (.ok (received (respKind i) r0 r1))
        ((s.block.loadTx (encode i)).latchResponse (respKind i) r0 r1) := by
  have h' : farReply (openBracket (encode i) s)
      ((openBracket (encode i) s).block.txOctets (respKind i)) = .ok r0 r1 := by
    rw [txOctets_openBracket]; simpa using h
  rw [transact, resumeBracket, poll_ok h', txOctets_openBracket]
  simp only [bracketed, afterPoll, selDeassert, State.record, State.withBlock]
  cases respKind i <;>
    simp [Block.latchResponse, openBracket, selAssert, State.record, State.withBlock] <;> rfl

/-- Everything a wire command can do, where it answers a next state: the bracket waits, or it is closed
after a `Fail`, or after a response. -/
theorem exec_cases {i : Instr} {s t : State} (h : exec i s = .next t) :
    s.ready ∧
    ((farReply s (encode i) = .silent ∧
        t = waitingBracket s (encode i) (s.block.loadTx (encode i))) ∨
      (farReply s (encode i) = .fail ∧
        t = bracketed s (encode i) .fail { s.block.loadTx (encode i) with ack := some false }) ∨
      ∃ r0 r1, farReply s (encode i) = .ok r0 r1 ∧
        t = bracketed s (encode i) (.ok (received (respKind i) r0 r1))
          ((s.block.loadTx (encode i)).latchResponse (respKind i) r0 r1)) := by
  rw [exec_eq_runCommand] at h
  obtain ⟨hr, rfl⟩ := runCommand_eq_next h
  refine ⟨hr, ?_⟩
  cases hf : farReply s (encode i) with
  | silent => exact .inl ⟨rfl, transact_silent hf⟩
  | fail => exact .inr (.inl ⟨rfl, transact_fail hf⟩)
  | ok r0 r1 => exact .inr (.inr ⟨r0, r1, rfl, transact_ok hf⟩)

/-- Taking a result leaves the environment alone. -/
theorem deliver_environment (s : State) :
    (deliver s).env = s.env ∧ (deliver s).requests = s.requests ∧ (deliver s).peer = s.peer := by
  unfold deliver
  split
  · split <;> (try split) <;> (try split) <;> simp
  · simp

/-- The reference peer never changes its arguments (R157). -/
theorem Peer.respond_arguments (p : Peer) (out : List Octet) :
    (p.respond out).1.accept = p.accept ∧ (p.respond out).1.wiperMax = p.wiperMax := by
  unfold Peer.respond Peer.onShort Peer.onLong Peer.onRead Peer.onWrite Peer.onIncr Peer.onDecr
  split
  · split <;> (try split) <;> (try split) <;> exact ⟨rfl, rfl⟩
  · split <;> (try split) <;> (try split) <;> exact ⟨rfl, rfl⟩
  · exact ⟨rfl, rfl⟩

/-! ### The event pattern -/

@[simp] theorem busScan_nil (p : Option BusPhase) : busScan [] p = p := rfl

@[simp] theorem busScan_cons (e : Event) (l : List Event) (p : Option BusPhase) :
    busScan (e :: l) p = busScan l (p.bind (busNext · e)) := rfl

@[simp] theorem busScan_append (l l' : List Event) (p : Option BusPhase) :
    busScan (l ++ l') p = busScan l' (busScan l p) := by
  simp [busScan, List.foldl_append]

/-- Once an event is out of place, the pattern stays broken. -/
@[simp] theorem busScan_none (l : List Event) : busScan l none = none := by
  induction l with
  | nil => rfl
  | cons e l ih => simpa using ih

end Sys2Proof.Machine
end

