-- ==== Sys2Proof/Laws/PerInstr.lean ====
section
/-! SUPPORT. Facts about every instruction as syntax, one lemma per constructor: its wire form has one
or two octets, as its response kind says, and is a well-formed frame (R50, R68). -/

namespace Sys2Proof.Laws.WireForm

/-- An instruction's octets are as many as its response's, and its frame is well-formed. -/
def Statement (i : Instr) : Prop :=
  (encode i).length = (if Machine.respKind i = .shortAck then 1 else 2) ∧ i.wellFormed = true

theorem write (a : RegAddr) (d : Data9) : Statement (.write a d) := ⟨rfl, Instr.wellFormed_all _⟩

theorem read (a : RegAddr) : Statement (.read a) := ⟨rfl, Instr.wellFormed_all _⟩

theorem incr (w : WiperSel) : Statement (.incr w) := ⟨rfl, Instr.wellFormed_all _⟩

theorem decr (w : WiperSel) : Statement (.decr w) := ⟨rfl, Instr.wellFormed_all _⟩

end Sys2Proof.Laws.WireForm
end

