-- ==== Sys2Proof/Tests/Slice0.lean ====
section
/-! SUPPORT. The model's own tests, each on one step or one function, with expected values from the
vectors of spec/95_test_vectors.md (V1 to V9, P1 to P8) or from the encodings of spec/30_encoding.md;
and the witnesses, a state and operands that meet a statement's hypotheses. -/

namespace Sys2Proof.Tests

open Sys2Proof Sys2Proof.Machine

/-! ### Ill-formed frames are refused, one per check -/

theorem smoke_address_unknown : Frame.wellFormed ⟨0x2, 0b11, false, false, some 0xFF⟩ = false := by decide
theorem smoke_short_on_tcon : Frame.wellFormed ⟨0x4, 0b01, false, false, none⟩ = false := by decide
theorem smoke_long_without_second : Frame.wellFormed ⟨0x0, 0b00, false, true, none⟩ = false := by decide
theorem smoke_short_with_second : Frame.wellFormed ⟨0x0, 0b10, false, false, some 0⟩ = false := by decide
theorem smoke_ack_bit_sent : Frame.wellFormed ⟨0x0, 0b00, true, false, some 0⟩ = false := by decide
theorem smoke_low_bit_of_read : Frame.wellFormed ⟨0x1, 0b11, false, true, some 0xFF⟩ = false := by decide
theorem smoke_wrong_filler : Frame.wellFormed ⟨0x5, 0b11, false, false, some 0x00⟩ = false := by decide
theorem smoke_well_formed : Frame.wellFormed ⟨0x5, 0b11, false, false, some 0xFF⟩ = true := by decide

/-! ### Decoding words written out from R52 to R54 and R63 -/

theorem test_decode_write_split :
    decode [0b0001_00_0_1, 0xAB] = .ok (.write .wiper1 0x1AB, []) := by decide
theorem test_decode_read :
    decode [0b0100_11_00, 0b11111111, 0x04] = .ok (.read .tcon, [0x04]) := by decide
theorem test_decode_incr : decode [0b0001_01_00] = .ok (.incr .wiper1, []) := by decide
theorem test_decode_decr : decode [0b0000_10_00] = .ok (.decr .wiper0, []) := by decide
theorem test_decode_short_on_status : decode [0x54] = .error (.shortOnNonWiper 0x5) := by decide
theorem test_decode_address_2 : decode [0x2C, 0xFF] = .error (.unknownAddress 0x2) := by decide
theorem test_decode_truncated : decode [0x0C] = .error .truncated := by decide
theorem test_decode_bit1_of_write : decode [0x02, 0x00] = .error .zeroBitSet := by decide
theorem test_decode_filler : decode [0x0C, 0x00] = .error (.wrongFiller 0x00) := by decide

/-! ### Codecs: V4, V6, V7, V8 -/

theorem test_long_mixed_reserved : unpackLong (respWord 0xAB 0xCD) = ⟨0b101010, true, 0x1CD⟩ := by decide
theorem test_long_nack : wrapRead (.ok 0xFD 0xFF) = none ∧ wrapAckLong (.ok 0x01 0xFF) = false := by decide
theorem test_long_zero_is_a_value : wrapRead (.ok 0x02 0x00) = some 0 := by decide
theorem test_short_ack_bit : wrapAckShort (.ok 0x02 0) = true ∧ wrapAckShort (.ok 0xFD 0) = false := by decide
theorem test_split_155 : split9 (data9 0x0355) = (true, 0x55) := by decide
theorem test_tcon_view :
    unpackTcon 0xDF = ⟨⟨true, true, true, true⟩, ⟨true, false, true, true⟩⟩ := by decide
theorem test_tcon_with_pot : tconWithPot 0x05 .pot1 0xA = 0xA5 := by decide
theorem test_tcon_with_flag : tconWithFlag 0x00 .pot0 .started true = 0x08 := by decide
theorem test_value_with_tcon : valueWithTcon 0x01FF 0xDF = 0x01DF := by decide
theorem test_sreg_with_shutdown :
    sregWithShutdown 0xA5A5 true = 0xA5A7 ∧ sregWithShutdown 0xFFFF false = 0xFFFD := by decide

/-! ### One step: the header of spec/95_test_vectors.md's peer, or a script of replies -/

/-- The start values of the header of spec/95_test_vectors.md, "arbitrary test inputs". -/
def headerPeer : Peer := ⟨⟨0x080, 0x080, 0x1FF, 0x1F0⟩, true, 0x100⟩

/-- An idle block with requests to come, on the reference peer. -/
def onPeer (reqs : List Request) : State :=
  { State.reset with requests := reqs, far := .reference, peer := headerPeer }

/-- An idle block with requests to come, on a far end of given replies. -/
def onScript (reqs : List Request) (replies : List Reply) : State :=
  { State.reset with requests := reqs, far := .script replies, peer := headerPeer }

/-- A `modify_register` between its brackets, `held` read as `v`. -/
def inBetween (a : RegAddr) (f : Transform) (v : Word16) : State :=
  { onPeer [] with block := { Block.reset with phase := .between, req := some (.modifyRegister a f), ack := some true, data := some (data9 v), held := some v } }

/-- What a next state is asked; false where there is none. -/
def after (o : Host.Outcome State Fault Refusal) (p : State → Bool) : Bool :=
  match o with
  | .next t => p t
  | _       => false

/-- V2, P1 step 3: every bit above bit 8 is dropped, bit 8 leaves in the first octet. -/
theorem test_write_masked : after (step (onPeer [.writeRegister .wiper1 0xFFFF])) (fun t =>
    t.trace == [.selAssert, .exchange [0x11, 0xFF] (.ok [0xFF, 0xFF]), .selDeassert, .result (.bit true)]
      && t.peer.regs.wiper1 == 0x1FF) = true := by decide

/-- P4 step 2: a nacked WRITE changes nothing and is reported as 0. -/
theorem test_write_nacked : after (step (onScript [.writeRegister .wiper0 5] [.ok 0xFD 0xFF])) (fun t =>
    t.trace == [.selAssert, .exchange [0x00, 0x05] (.ok [0xFD, 0xFF]), .selDeassert, .result (.bit false)]) = true := by
  decide

/-- V4: bit 8 of the payload comes from bit 0 of the first octet received. -/
theorem test_read_bit8 : after (step (onScript [.readRegister .wiper0] [.ok 0xFF 0x00])) (fun t =>
    t.trace == [.selAssert, .exchange [0x0C, 0xFF] (.ok [0xFF, 0x00]), .selDeassert,
      .result (.value (some 0x0100))]) = true := by decide

/-- S7: a failed exchange still closes its bracket, once, and the result is `None`. -/
theorem test_read_failed : after (step (onScript [.readRegister .tcon] [.fail])) (fun t =>
    t.trace == [.selAssert, .exchange [0x4C, 0xFF] .fail, .selDeassert, .result (.value none)]
      && t.block == Block.reset) = true := by decide

/-- V5: INCR of pot 1, one octet each way, and the peer's step. -/
theorem test_incr : after (step (onPeer [.wiperIncrement .pot1])) (fun t =>
    t.trace == [.selAssert, .exchange [0x14] (.ok [0xFF]), .selDeassert, .result (.bit true)]
      && t.peer.regs.wiper1 == 0x081 && t.peer.regs.wiper0 == 0x080) = true := by decide

/-- V5: bit 0 of a short response is not the acknowledgement. -/
theorem test_incr_nacked : after (step (onScript [.wiperIncrement .pot0] [.ok 0x01 0xFF])) (fun t =>
    t.trace == [.selAssert, .exchange [0x04] (.ok [0x01]), .selDeassert, .result (.bit false)]) = true := by decide

/-- V5, P3: DECR of pot 0; the peer's floor is tested at 0. -/
theorem test_decr : after (step (onPeer [.wiperDecrement .pot0])) (fun t =>
    t.trace == [.selAssert, .exchange [0x08] (.ok [0xFF]), .selDeassert, .result (.bit true)]
      && t.peer.regs.wiper0 == 0x07F) = true := by decide

theorem test_peer_bounds : stepDown 0 = 0 ∧ stepUp 0x100 0x100 = 0x100 ∧ stepUp 0x100 0x0FF = 0x100 := by decide

/-- P2, first bracket: the read is held, `cs` is deasserted, nothing is returned yet. -/
theorem test_modify_read : after (step (onPeer [.modifyRegister .tcon (.tconFlag .pot1 .wiper false)])) (fun t =>
    t.trace == [.selAssert, .exchange [0x4C, 0xFF] (.ok [0xFF, 0xFF]), .selDeassert]
      && t.block.phase == .between && t.block.cs == .deasserted && t.block.held == some 0x01FF) = true := by decide

/-- P2, second bracket: one flag cleared, pot 0's nibble and bit 8 as they were. -/
theorem test_modify_write : after (step (inBetween .tcon (.tconFlag .pot1 .wiper false) 0x01FF)) (fun t =>
    t.trace == [.selAssert, .exchange [0x41, 0xDF] (.ok [0xFF, 0xFF]), .selDeassert, .result (.bit true)]
      && t.peer.regs.tcon == 0x1DF) = true := by decide

/-- P8: the shutdown flag set, the other bits as read. -/
theorem test_modify_sreg : after (step (inBetween .status (.sregShutdown true) 0x01F0)) (fun t =>
    t.trace == [.selAssert, .exchange [0x51, 0xF2] (.ok [0xFF, 0xFF]), .selDeassert, .result (.bit true)]) = true := by
  decide

/-- S6a and S6b: the two readings of the document's example. -/
theorem test_modify_s6 :
    encode (commandOf (.modifyRegister .tcon (.bitAnd (~~~0x0001))) (some 0x0005)) = [0x40, 0x04] ∧
    encode (commandOf (.modifyRegister .tcon (.bitAnd (~~~0x0002))) (some 0x0005)) = [0x40, 0x05] := by decide

/-- R205: no answer leaves the bracket open. -/
theorem test_unanswered : after (step (onScript [.readRegister .tcon] [])) (fun t =>
    t.block.phase == .selected && t.block.cs == .asserted && t.trace == [.selAssert]) = true := by decide

/-- R42: another actor's write between the brackets does not stop the write-back. -/
theorem test_other_actor : after (step { inBetween .tcon .identity 0x0FF with env := [.otherWrite .tcon 0x0F0] })
    (fun t => t.block.phase == .between && t.peer.regs.tcon == 0x0F0 && t.trace == []) = true := by decide

/-- A word of the opcode table, placed after reset, is sent by the next step (its first event is the
bracket's opening, its request taken). -/
theorem test_fetch_word_after_reset :
    (step (State.reset.withFetchWord 16 0x4CFF) =
      thenDo deliver (execRead .tcon (acceptRequest (.readRegister .tcon) (State.reset.withFetchWord 16 0x4CFF)))) ∧
    (step (State.reset.withFetchWord 8 0x18) =
      thenDo deliver (execDecr .wiper1 (acceptRequest (.wiperDecrement .pot1) (State.reset.withFetchWord 8 0x18)))) :=
  ⟨rfl, rfl⟩

/-- Each row of the opcode table, its free bits 0, is decoded and run by the first step after reset. -/
theorem test_fetch_rows :
    [(16, 0x0000), (16, 0x0CFF), (8, 0x04), (8, 0x08)].all (fun (n, w) =>
      (decodeTableWord n w).isSome && after (step (State.reset.withFetchWord n w)) (fun _ => true)) = true := by
  decide

/-! ### Witnesses: the hypotheses of each statement are met -/

theorem witness_EncodeOfDecode : decode [0x41, 0xDF, 0x04] = .ok (.write .tcon 0x1DF, [0x04]) := by decide

theorem witness_IllegalAddressesRejected :
    (0x6C : Octet).extractLsb' 4 4 ∉ [0x0#4, 0x1#4, 0x4#4, 0x5#4] ∧
    (0x2C : Octet).extractLsb' 4 4 ∉ [0x0#4, 0x1#4, 0x4#4, 0x5#4] ∧
    (0x44 : Octet).extractLsb' 4 4 ∈ [0x4#4, 0x5#4] ∧ (0x44 : Octet).extractLsb' 2 2 ∈ [0b01#2, 0b10#2] ∧
    (0x58 : Octet).extractLsb' 4 4 ∈ [0x4#4, 0x5#4] ∧ (0x58 : Octet).extractLsb' 2 2 ∈ [0b01#2, 0b10#2] := by decide

theorem witness_WritePayloadMaskedAndSplit : (0x0355 : Word16) &&& 0x1FF#16 = 0x0155 &&& 0x1FF#16 := by decide

theorem witness_OptionalResultWrapper : wrapRead (.ok 0x03 0xFF) = some 0x01FF := by decide

theorem witness_WriteCommandEffect : (onPeer []).ready ∧
    farReply (onPeer []) (encode (.write .status 0x1F2)) = .ok 0xFF 0xFF ∧
    farReply (onScript [] [.fail]) (encode (.write .status 0x1F2)) = .fail ∧
    farReply (onScript [] []) (encode (.write .status 0x1F2)) = .silent ∧
    encode (.write .status 0x1F2) = [0x51, 0xF2] := by decide

theorem witness_ReadCommandEffect : (inBetween .tcon .identity 0).ready ∧
    farReply (onPeer []) (encode (.read .tcon)) = .ok 0xFF 0xFF ∧
    farReply (onScript [] [.ok 0xFD 0xFF]) (encode (.read .tcon)) = .ok 0xFD 0xFF ∧
    farReply (onScript [] [.fail]) (encode (.read .tcon)) = .fail ∧
    farReply (onScript [] []) (encode (.read .tcon)) = .silent ∧
    encode (.read .tcon) = [0x4C, 0xFF] := by decide

theorem witness_IncrCommandEffect : (onPeer []).ready ∧
    farReply (onPeer []) [0x04] = .ok 0xFF 0xFF ∧ farReply (onScript [] [.ok 0x02 0]) [0x14] = .ok 0x02 0 ∧
    farReply (onScript [] [.fail]) [0x14] = .fail ∧ farReply (onScript [] [.silent]) [0x14] = .silent := by decide

theorem witness_DecrCommandEffect : (onPeer []).ready ∧
    farReply (onPeer []) [0x18] = .ok 0xFF 0xFF ∧ farReply (onScript [] [.ok 0x00 0]) [0x08] = .ok 0x00 0 ∧
    farReply (onScript [] [.fail]) [0x08] = .fail ∧ farReply (onScript [] []) [0x08] = .silent := by decide

theorem witness_CommandFrame :
    (∃ t, exec (.write .tcon 0x0DF) (onPeer []) = .next t) ∧ (∃ t, exec (.read .tcon) (onPeer []) = .next t) ∧
    (∃ t, exec (.incr .wiper0) (onPeer []) = .next t) ∧ (∃ t, exec (.decr .wiper1) (onPeer []) = .next t) ∧
    (onPeer []).far = .reference ∧ changes (.write .tcon 0x0DF) ≠ some .wiper0 ∧
    changes (.read .tcon) ≠ some .tcon ∧ changes (.incr .wiper0) ≠ some .wiper1 :=
  ⟨⟨_, rfl⟩, ⟨_, rfl⟩, ⟨_, rfl⟩, ⟨_, rfl⟩, by decide, by decide, by decide, by decide⟩

/-- A bracket opened on a far end that has not answered. -/
def unanswered : State := openBracket (encode (.read .tcon)) (acceptRequest (.readRegister .tcon) (onScript [.readRegister .tcon] []))

theorem witness_CommandRefusedWhileBracketOpen :
    unanswered.block.phase = .selected ∧ (onPeer []).ready ∧
    exec (.incr .wiper0) unanswered = .refused .bracketOpen := ⟨rfl, by decide, rfl⟩

theorem witness_StepRunsNextCommand :
    (onPeer [.readRegister .tcon]).block.phase = .idle ∧ (onPeer [.readRegister .tcon]).quiet ∧
    (onPeer [.readRegister .tcon]).requests = .readRegister .tcon :: [] ∧
    (inBetween .tcon .identity 5).block.phase = .between ∧ (inBetween .tcon .identity 5).quiet ∧
    (inBetween .tcon .identity 5).block.req = some (.modifyRegister .tcon .identity) := by decide

theorem witness_StepRunsFetchedWord : decodeTableWord 8 0x14 = some (.incr .wiper1) := by decide

theorem witness_ReadRegisterOperation :
    (onPeer [.readRegister .status]).block.phase = .idle ∧ (onPeer [.readRegister .status]).env = [] ∧
    farReply (onPeer [.readRegister .status]) [RegAddr.code .status ++ (0b1100 : BitVec 4), 0xFF] = .ok 0xFF 0xF0 ∧
    answerOf 2 (.ok 0xFF 0xF0) = some (.ok [0xFF, 0xF0]) := by decide

theorem witness_WriteRegisterOperation :
    let s := onPeer [.writeRegister .wiper0 0x0100]
    s.block.phase = .idle ∧ s.env = [] ∧ s.requests = .writeRegister .wiper0 0x0100 :: [] ∧
    farReply s [RegAddr.code .wiper0 ++ (0b000 : BitVec 3) ++ BitVec.ofBool ((0x0100 : Word16).getLsbD 8),
      (0x0100 : Word16).extractLsb' 0 8] = .ok 0xFF 0xFF ∧
    answerOf 2 (.ok 0xFF 0xFF) = some (.ok [0xFF, 0xFF]) := by decide

/-- For WiperIncrementOperation and WiperDecrementOperation. -/
theorem witness_WiperOperations :
    (onPeer [.wiperIncrement .pot0]).block.phase = .idle ∧ (onPeer [.wiperIncrement .pot0]).env = [] ∧
    farReply (onPeer [.wiperIncrement .pot0]) [0x04] = .ok 0xFF 0xFF ∧
    farReply (onPeer [.wiperDecrement .pot1]) [0x18] = .ok 0xFF 0xFF ∧
    answerOf 1 (.ok 0xFF 0xFF) = some (.ok [0xFF]) ∧ answerOf 1 .fail = some .fail := by decide

theorem witness_ModifyReadBracket :
    let s := onPeer [.modifyRegister .wiper0 (.add 1)]
    let n := onScript [.modifyRegister .wiper0 (.add 1)] [.ok 0xFD 0xFF]
    s.block.phase = .idle ∧ s.env = [] ∧
    farReply s [RegAddr.code .wiper0 ++ (0b1100 : BitVec 4), 0xFF] = .ok 0xFE 0x80 ∧
    wrapRead (.ok 0xFE 0x80) = some 0x0080 ∧ answerOf 2 (.ok 0xFE 0x80) = some (.ok [0xFE, 0x80]) ∧
    n.block.phase = .idle ∧ n.env = [] ∧
    farReply n [RegAddr.code .wiper0 ++ (0b1100 : BitVec 4), 0xFF] = .ok 0xFD 0xFF ∧
    wrapRead (.ok 0xFD 0xFF) = none := by decide

theorem witness_ModifyWriteBracket :
    let s := inBetween .wiper0 (.add 1) 0x0080
    s.block.phase = .between ∧ s.env = [] ∧ s.block.req = some (.modifyRegister .wiper0 (.add 1)) ∧
    s.block.held = some 0x0080 ∧ applyTransform (.add 1) 0x0080 = 0x0081 ∧
    farReply s [0x00, 0x81] = .ok 0xFF 0xFF ∧ answerOf 2 (.ok 0xFF 0xFF) = some (.ok [0xFF, 0xFF]) := by decide

theorem witness_ModifyRegisterOperation :
    let s := onScript [.modifyRegister .wiper0 (.add 1)] [.ok 0xFE 0x80, .fail]
    s.block.phase = .idle ∧ s.env = [] ∧ s.failNext = false ∧
    s.far = .script (.ok 0xFE 0x80 :: .fail :: []) ∧ wrapRead (.ok 0xFE 0x80) = some 0x0080 ∧
    answerOf 2 .fail = some .fail := by decide

theorem witness_ReservedResponseBitsIgnored :
    let s := onScript [.readRegister .tcon] []
    s.block.phase = .idle ∧ s.quiet ∧ s.failNext = false ∧
    (0xFE : Octet).getLsbD 1 = (0x02 : Octet).getLsbD 1 ∧ (0xFE : Octet).getLsbD 0 = (0x02 : Octet).getLsbD 0 ∧
    (∃ t, step { s with far := .script [.ok 0xFE 0x80] } = .next t) ∧
    (∃ t, step { s with far := .script [.ok 0x02 0x80] } = .next t) :=
  ⟨by decide, by decide, by decide, by decide, by decide, ⟨_, rfl⟩, ⟨_, rfl⟩⟩

theorem witness_NackAndTransportFailureAlike :
    let s := onScript [.modifyRegister .tcon .identity] []
    s.block.phase = .idle ∧ s.quiet ∧ s.failNext = false ∧ (0xFD : Octet).getLsbD 1 = false ∧
    (∃ t, step { s with far := .script [.ok 0xFD 0xFF] } = .next t) ∧
    (∃ t, step { s with far := .script [.fail] } = .next t) :=
  ⟨by decide, by decide, by decide, by decide, ⟨_, rfl⟩, ⟨_, rfl⟩⟩

theorem witness_UnansweredExchangeHangs :
    unanswered.block.phase = .selected ∧ unanswered.block.req = some (.readRegister .tcon) ∧
    unanswered.failNext = false ∧ unanswered.far = .script [] ∧
    ∀ k < 2, ∀ u, Host.Core.run core k unanswered = .next u →
      farReply u (unanswered.block.txOctets
        (respKind (commandOf (.readRegister .tcon) unanswered.block.held))) = .silent := by
  refine ⟨rfl, rfl, rfl, rfl, fun k hk u hu => ?_⟩
  match k, hk with
  | 0, _ => cases hu; rfl
  | 1, _ => cases hu; rfl

theorem witness_ReferencePeerAnswers : headerPeer.accept = true ∧
    ({ headerPeer with accept := false } : Peer).accept = false ∧
    (0xF4 : Octet).extractLsb' 4 4 ∉ [0x0#4, 0x1#4, 0x4#4, 0x5#4] ∧
    (0x44 : Octet).extractLsb' 4 4 ∈ [0x4#4, 0x5#4] ∧ (0x44 : Octet).extractLsb' 2 2 ∈ [0b01#2, 0b10#2] ∧
    (0x58 : Octet).extractLsb' 4 4 ∈ [0x4#4, 0x5#4] ∧ (0x58 : Octet).extractLsb' 2 2 ∈ [0b01#2, 0b10#2] := by decide

theorem witness_EchoLaw :
    let s := onPeer [.writeRegister .status 0x8155, .readRegister .status]
    s.block.phase = .idle ∧ s.env = [] ∧ s.failNext = false ∧ s.far = .reference ∧ s.peer.accept = true := by decide

theorem witness_IncrementsReachTheClamp :
    let s := { onPeer (List.replicate 3 (.wiperIncrement .pot0)) with peer := ⟨⟨0x0FE, 0, 0, 0⟩, true, 0x100⟩ }
    s.block.phase = .idle ∧ s.env = [] ∧ s.failNext = false ∧ s.far = .reference ∧ s.peer.accept = true ∧
    PeerRegs.read s.peer.regs (potWiper .pot0).toReg ≤ s.peer.wiperMax ∧
    s.requests = List.replicate 3 (.wiperIncrement .pot0) ++ [] := by decide

theorem witness_ModifyOnTheReferencePeer :
    let s := onPeer [.modifyRegister .tcon (.tconFlag .pot1 .wiper false)]
    s.block.phase = .idle ∧ s.env = [] ∧ s.failNext = false ∧ s.far = .reference ∧ s.peer.accept = true ∧
    s.requests = .modifyRegister .tcon (.tconFlag .pot1 .wiper false) :: [] := by decide

theorem witness_FailedOperationsChangeNoRegister :
    let s := { onPeer [.readRegister .tcon] with peer := { headerPeer with accept := false } }
    let f := { onPeer [.wiperDecrement .pot0] with failNext := true }
    s.block.phase = .idle ∧ s.env = [] ∧ s.far = .reference ∧ s.peer.accept = false ∧
    f.block.phase = .idle ∧ f.env = [] ∧ f.far = .reference ∧ f.failNext = true := by decide

theorem witness_InterleavedWriteIsLost :
    let s := { inBetween .tcon (.bitAnd (~~~0x0020)) 0x00FF with env := [.otherWrite .tcon 0x0F0] }
    s.block.phase = .between ∧ s.block.req = some (.modifyRegister .tcon (.bitAnd (~~~0x0020))) ∧
    s.block.held = some 0x00FF ∧ s.env = [.otherWrite .tcon 0x0F0] ∧ s.far = .reference ∧
    s.peer.accept = true ∧ s.failNext = false := by decide

/-- A bracket answered and not yet closed. -/
def answered : State :=
  poll .readData { unanswered with far := .script [.ok 0xFE 0xDF] }

theorem witness_OthersActOnlyBetweenBrackets :
    (∃ t, step unanswered = .next t) ∧ unanswered.block.phase = .selected ∧
    (∃ t, step answered = .next t) ∧ answered.block.phase = .answered ∧
    (∃ t, step (onPeer [.readRegister .tcon]) = .next t) ∧
    envDue [.otherWrite .tcon 0] = some (.otherWrite .tcon 0) ∧
    (∃ t, step { onPeer [] with env := [.otherWrite .tcon 0] } = .next t) ∧
    ({ onPeer [] with env := [.otherWrite .tcon 0] } : State).ready :=
  ⟨⟨_, rfl⟩, rfl, ⟨_, rfl⟩, rfl, ⟨_, rfl⟩, rfl, ⟨_, rfl⟩, .inl rfl⟩

/-- The invariant holds of a state in each phase, and each has a next step: the witnesses of
StepKeepsInvariant, ChipSelectFollowsPhase, StepAlwaysAnswersNext and StepIsPhaseTransitions. -/
theorem witness_Invariant_idle : (onPeer [.readRegister .tcon]).Inv ∧
    ∃ t, step (onPeer [.readRegister .tcon]) = .next t := ⟨⟨rfl, rfl⟩, ⟨_, rfl⟩⟩

theorem witness_Invariant_selected : unanswered.Inv ∧ ∃ t, step unanswered = .next t :=
  ⟨⟨⟨rfl, trivial, _, ⟨_, rfl, rfl⟩, rfl⟩, rfl⟩, ⟨_, rfl⟩⟩

theorem witness_Invariant_answered : answered.Inv ∧ ∃ t, step answered = .next t :=
  ⟨⟨⟨rfl, trivial, ⟨_, ⟨_, rfl, rfl⟩, rfl⟩, rfl⟩, rfl⟩, ⟨_, rfl⟩⟩

theorem witness_Invariant_between : (inBetween .tcon .identity 0x01FF).Inv ∧
    ∃ t, step (inBetween .tcon .identity 0x01FF) = .next t :=
  ⟨⟨⟨rfl, ⟨⟨_, _, rfl⟩, 0x1FF, rfl⟩, rfl, rfl⟩, rfl⟩, ⟨_, rfl⟩⟩

/-- Both bus ends of a step: a step from each phase is in the witnesses of the invariant; here one that
closes the bracket it found open. -/
theorem witness_DeassertedExactlyOnce : answered.Inv ∧ answered.block.cs = .asserted ∧
    ∃ t, step answered = .next t ∧ t.block.cs = .deasserted :=
  ⟨witness_Invariant_answered.1, rfl, _, rfl, rfl⟩

theorem witness_PhaseTransitionsOfTheSpec :
    (∃ t, microStep (onPeer [.readRegister .tcon]) = .next t) ∧ (∃ t, microStep unanswered = .next t) ∧
    (∃ t, microStep answered = .next t) ∧ ∃ t, microStep (inBetween .tcon .identity 0x01FF) = .next t :=
  ⟨⟨_, rfl⟩, ⟨_, rfl⟩, ⟨_, rfl⟩, ⟨_, rfl⟩⟩

/-! ### Brackets that were left open -/

/-- The first bracket of a request, open, with the far end's replies to come. -/
def waiting (r : Request) (replies : List Reply) : State :=
  openBracket (encode (commandOf r none)) (acceptRequest r (onScript [r] replies))

/-- The write bracket of `modify_register`, open, with the far end's replies to come. -/
def waitingWrite (a : RegAddr) (f : Transform) (v : Word16) (replies : List Reply) : State :=
  { openBracket (encode (commandOf (.modifyRegister a f) (some v))) (inBetween a f v) with
    far := .script replies, trace := [.selAssert] }

/-- R205, V4: a READ answered at the second poll. -/
theorem test_late_answer : after (step (waiting (.readRegister .wiper0) [.ok 0xFF 0x00])) (fun t =>
    t.trace == [.selAssert, .exchange [0x0C, 0xFF] (.ok [0xFF, 0x00]), .selDeassert,
      .result (.value (some 0x0100))] && t.block == Block.reset) = true := by decide

theorem witness_ResumedLongOperations :
    let s := waiting (.readRegister .tcon) [.ok 0xFE 0xDF]
    let w := waiting (.writeRegister .wiper1 0x01FF) [.fail]
    s.Inv ∧ s.block.phase = .selected ∧ s.block.req = some (.readRegister .tcon) ∧
    farReply s [0x4C, 0xFF] = .ok 0xFE 0xDF ∧ answerOf 2 (.ok 0xFE 0xDF) = some (.ok [0xFE, 0xDF]) ∧
    w.Inv ∧ w.block.phase = .selected ∧ w.block.req = some (.writeRegister .wiper1 0x01FF) ∧
    farReply w [0x11, 0xFF] = .fail ∧ answerOf 2 .fail = some .fail :=
  ⟨⟨⟨rfl, trivial, _, ⟨_, rfl, rfl⟩, rfl⟩, rfl⟩, rfl, rfl, rfl, rfl,
    ⟨⟨rfl, trivial, _, ⟨_, rfl, rfl⟩, rfl⟩, rfl⟩, rfl, rfl, rfl, rfl⟩

theorem witness_ResumedShortOperations :
    let s := waiting (.wiperIncrement .pot1) [.ok 0x02 0]
    let w := waiting (.wiperDecrement .pot0) [.ok 0xFD 0]
    s.Inv ∧ s.block.phase = .selected ∧ s.block.req = some (.wiperIncrement .pot1) ∧
    farReply s [0x14] = .ok 0x02 0 ∧ answerOf 1 (.ok 0x02 0) = some (.ok [0x02]) ∧
    w.Inv ∧ w.block.phase = .selected ∧ w.block.req = some (.wiperDecrement .pot0) ∧
    farReply w [0x08] = .ok 0xFD 0 ∧ answerOf 1 (.ok 0xFD 0) = some (.ok [0xFD]) :=
  ⟨⟨⟨rfl, trivial, _, ⟨_, rfl, rfl⟩, rfl⟩, rfl⟩, rfl, rfl, rfl, rfl,
    ⟨⟨rfl, trivial, _, ⟨_, rfl, rfl⟩, rfl⟩, rfl⟩, rfl, rfl, rfl, rfl⟩

theorem witness_ResumedModifyRegister :
    let s := waiting (.modifyRegister .wiper0 (.add 1)) [.ok 0xFE 0x80]
    let n := waiting (.modifyRegister .wiper0 (.add 1)) [.fail]
    let w := waitingWrite .wiper0 (.add 1) 0x0080 [.ok 0xFF 0xFF]
    s.Inv ∧ s.block.phase = .selected ∧ s.block.req = some (.modifyRegister .wiper0 (.add 1)) ∧
    s.block.held = none ∧ farReply s [0x0C, 0xFF] = .ok 0xFE 0x80 ∧
    wrapRead (.ok 0xFE 0x80) = some 0x0080 ∧
    n.Inv ∧ n.block.held = none ∧ farReply n [0x0C, 0xFF] = .fail ∧ wrapRead .fail = none ∧
    w.Inv ∧ w.block.phase = .selected ∧ w.block.req = some (.modifyRegister .wiper0 (.add 1)) ∧
    w.block.held = some 0x0080 ∧ farReply w [0x00, 0x81] = .ok 0xFF 0xFF :=
  ⟨⟨⟨rfl, trivial, _, ⟨_, rfl, rfl⟩, rfl⟩, rfl⟩, rfl, rfl, rfl, rfl, rfl,
    ⟨⟨rfl, trivial, _, ⟨_, rfl, rfl⟩, rfl⟩, rfl⟩, rfl, rfl, rfl,
    ⟨⟨rfl, ⟨⟨_, _, rfl⟩, 0x080, rfl⟩, _, ⟨_, rfl, rfl⟩, rfl⟩, rfl⟩, rfl, rfl, rfl, rfl⟩

theorem witness_AnsweredBracketCloses :
    answered.block.phase = .answered ∧ answered.block.ack = some true ∧
    answered.block.req = some (.readRegister .tcon) ∧
    (let s := poll .shortAck (waiting (.wiperIncrement .pot0) [.fail])
     s.block.phase = .answered ∧ s.block.ack = some false ∧ s.block.req = some (.wiperIncrement .pot0) ∧
     looksAtData (.wiperIncrement .pot0) = false) ∧
    (let s := poll .readData (waiting (.modifyRegister .tcon .identity) [.ok 0xFE 0x80])
     s.block.phase = .answered ∧ s.block.ack = some true ∧ s.block.held = none ∧ s.block.data = some 0x080) ∧
    (let s := poll .readData (waiting (.modifyRegister .tcon .identity) [.ok 0xFD 0xFF])
     s.block.phase = .answered ∧ s.block.ack = some false ∧ s.block.held = none) ∧
    (let s := poll .writeAck (waitingWrite .tcon .identity 0x0080 [.ok 0xFF 0xFF])
     s.block.phase = .answered ∧ s.block.ack = some true ∧ s.block.held.isSome) := by decide

end Sys2Proof.Tests
end

section
/-! PROOF. The payload of a WRITE (R54, R59): where its nine bits are sent, and that the mask of the API
value is the cut to nine bits. -/

namespace Sys2Proof

/-- Bit 0 of a WRITE's command byte takes one payload bit and leaves the other seven (R54). -/
theorem cmdByte_write_or_bit (a : RegAddr) (b : Bit) :
    cmdByte .write a ||| zext8 (BitVec.ofBool b) =
      a.code ++ (0b000 : BitVec 3) ++ BitVec.ofBool b := by
  cases a <;> cases b <;> rfl

theorem encode_write (a : RegAddr) (d : Data9) :
    encode (.write a d) =
      [a.code ++ (0b000 : BitVec 3) ++ BitVec.ofBool (d.getLsbD 8), d.extractLsb' 0 8] :=
  congrArg (fun o => [o, d.extractLsb' 0 8]) (cmdByte_write_or_bit a (d.getLsbD 8))

namespace Machine

/-- The payload has the API value's bits below 9, in their places (R59). -/
theorem data9_getLsbD (v : Word16) {i : Nat} (hi : i < 9) : (data9 v).getLsbD i = v.getLsbD i := by
  simp [data9, hi]

theorem data9_low_octet (v : Word16) : (data9 v).extractLsb' 0 8 = v.extractLsb' 0 8 := by
  apply BitVec.eq_of_getLsbD_eq
  intro i hi
  have bit := data9_getLsbD v (show i < 9 by omega)
  simpa [hi] using bit

/-- The cut to nine bits sees only the masked value: "equivalently `v & 0x1FF`" (R59). -/
theorem data9_mask (v : Word16) : data9 (v &&& 0x1FF#16) = data9 v := by
  have ones : data9 0x1FF#16 = BitVec.allOnes 9 := by decide
  calc data9 (v &&& 0x1FF#16)
      = data9 v &&& data9 0x1FF#16 := BitVec.extractLsb'_and
    _ = data9 v := by rw [ones, BitVec.and_allOnes]

end Machine

end Sys2Proof

open Sys2Proof Sys2Proof.Machine

/-- Settles O7: the octets are the encoder's over `data9 v`, and `data9` does not see bits 15:9. -/
theorem writePayloadMaskedAndSplit : Obligations.WritePayloadMaskedAndSplit := by
  refine ⟨fun a v => ?_, fun a v v' agree => ?_⟩
  · have bit8 := data9_getLsbD v (show 8 < 9 by decide)
    rw [commandOf, encode_write, bit8, data9_low_octet]
  · have payload : data9 v = data9 v' := by rw [← data9_mask v, agree, data9_mask]
    simp only [commandOf, payload]
end

section
/-! PROOF. The codecs' laws (R81 to R87, R90, R91, R95, R97). A codec cuts a word into adjacent fields or
puts such fields together again; the first lemmas say once that the two are inverse, and each codec's laws
are theirs under its own name. -/

namespace Sys2Proof

section fields
variable {m n : Nat} (hi : BitVec m) (b : Bit) (lo : BitVec n)

/-- A bit of a word, as a field one bit wide. -/
theorem ofBool_getLsbD (x : BitVec n) (i : Nat) :
    BitVec.ofBool (x.getLsbD i) = x.extractLsb' i 1 := by
  ext j hj
  obtain rfl : j = 0 := by omega
  simp

theorem append_bit_append_of_fields (x : BitVec (m + 1 + n)) :
    x.extractLsb' (n + 1) m ++ BitVec.ofBool (x.getLsbD n) ++ x.extractLsb' 0 n = x := by
  rw [ofBool_getLsbD, BitVec.extractLsb'_append_extractLsb'_eq_extractLsb' rfl,
    BitVec.extractLsb'_append_extractLsb']

theorem high_of_append_bit_append :
    (hi ++ BitVec.ofBool b ++ lo).extractLsb' (n + 1) m = hi := by
  rw [BitVec.extractLsb'_append_eq_of_le (by omega), Nat.add_sub_cancel_left,
    BitVec.extractLsb'_append_eq_left]

theorem bit_of_append_bit_append : (hi ++ BitVec.ofBool b ++ lo).getLsbD n = b := by
  rw [BitVec.getLsbD_append]
  simp [BitVec.append_ofBool]

end fields

/-- `zext_16` of a payload puts seven zero bits above it (R5). -/
theorem zext16_eq_append (d : Data9) : zext16 d = 0#7 ++ d :=
  BitVec.setWidth_eq_append (by decide)

/-! ### The command byte and the payload's two parts (R81, R97) -/

theorem cmdByte_eq_append (op : Opcode) (a : RegAddr) :
    cmdByte op a = a.code ++ op.code ++ 0b00#2 := by
  have shifted := BitVec.setWidth_append_append_eq_shiftLeft_setWidth_or
    (b := a.code) (b' := op.code) (b'' := 0b00#2) (w''' := 8)
  rw [BitVec.setWidth_eq] at shifted
  rw [shifted, cmdByte]
  simp

theorem join9_split9 (d : Data9) : join9 (split9 d).1 (split9 d).2 = d := by
  rw [join9, split9, ofBool_getLsbD]
  exact BitVec.extractLsb'_append_extractLsb'

theorem split9_join9 (h : Bit) (l : Octet) : split9 (join9 h l) = (h, l) := by
  have bit : (join9 h l).getLsbD 8 = h := by
    rw [join9, BitVec.getLsbD_append]
    simp
  have octet : (join9 h l).extractLsb' 0 8 = l := BitVec.extractLsb'_append_eq_right
  rw [split9, bit, octet]

namespace Machine

/-! ### The long and the short response (R82 to R87) -/

theorem respWord_eq_or (r0 r1 : Octet) : respWord r0 r1 = (zext16 r0 <<< 8) ||| zext16 r1 := by
  have shifted := BitVec.setWidth_append_eq_shiftLeft_setWidth_or (b := r0) (b' := r1) (w'' := 16)
  rwa [BitVec.setWidth_eq] at shifted

theorem respWord_high (r0 r1 : Octet) : (respWord r0 r1).extractLsb' 8 8 = r0 :=
  BitVec.extractLsb'_append_eq_left

theorem respWord_low (r0 r1 : Octet) : (respWord r0 r1).extractLsb' 0 8 = r1 :=
  BitVec.extractLsb'_append_eq_right

theorem packLong_unpackLong (w : Word16) : packLong (unpackLong w) = w :=
  append_bit_append_of_fields (m := 6) (n := 9) w

theorem unpackLong_packLong (r : LongResp) : unpackLong (packLong r) = r := by
  obtain ⟨reserved, ack, data⟩ := r
  rw [unpackLong, packLong, LongResp.mk.injEq]
  exact ⟨high_of_append_bit_append .., bit_of_append_bit_append .., BitVec.extractLsb'_append_eq_right⟩

theorem packShort_unpackShort (b : Octet) : packShort (unpackShort b) = b := by
  rw [packShort, unpackShort, ofBool_getLsbD b 0]
  exact append_bit_append_of_fields (m := 6) (n := 1) b

theorem unpackShort_packShort (r : ShortResp) : unpackShort (packShort r) = r := by
  obtain ⟨rsvHi, ack, rsvLo⟩ := r
  rw [unpackShort, packShort, ShortResp.mk.injEq]
  refine ⟨high_of_append_bit_append .., bit_of_append_bit_append .., ?_⟩
  rw [BitVec.append_ofBool]
  exact BitVec.getLsbD_concat_zero

/-! ### The nine-bit extractor and the wiper value (R85, R95) -/

theorem zext16_data9 (w : Word16) : zext16 (data9 w) = w &&& Config.dataMask := by
  have mask : Config.dataMask = (BitVec.allOnes 9).setWidth 16 := by decide
  have cut : w.setWidth 9 = data9 w := BitVec.setWidth_eq_extractLsb' (by decide)
  calc zext16 (data9 w)
      = 0#7 ++ data9 w := zext16_eq_append _
    _ = w &&& (BitVec.allOnes 9).setWidth 16 := by
        rw [← cut]; exact (BitVec.and_setWidth_allOnes 7 9 w).symm
    _ = w &&& Config.dataMask := by rw [mask]

theorem wiperOfValue_valueOfWiper (p : Data9) : wiperOfValue (valueOfWiper p) = p :=
  data9_zext16 p

theorem valueOfWiper_high (p : Data9) : (valueOfWiper p).extractLsb' 9 7 = 0 := by
  rw [valueOfWiper, zext16_eq_append]
  exact BitVec.extractLsb'_append_eq_left

/-- The value of a position is sent as that position, whatever `WIPER_MAX` is (R95). -/
theorem commandOf_writeRegister_valueOfWiper (a : RegAddr) (p : Data9) :
    commandOf (.writeRegister a (valueOfWiper p)) none = .write a p :=
  congrArg (Instr.write a) (wiperOfValue_valueOfWiper p)

/-! ### One pot's nibble (R90, R91) -/

section pots
variable (t : Octet) (p : Pot) (n : Nibble)

/-- The nibble of pot `p` is `(t >> 4p)[3:0]` (R90). -/
theorem tconPot_eq_shift : tconPot t p = (t >>> (4 * potIndex p)).extractLsb' 0 4 := by
  cases p with
  | pot0 => simp [tconPot, potIndex]
  | pot1 =>
    rw [potIndex, BitVec.ushiftRight_eq_extractLsb'_of_lt (by decide), BitVec.extractLsb'_cast]
    exact BitVec.extractLsb'_append_eq_right.symm

theorem tconPot_tconWithPot_same : tconPot (tconWithPot t p n) p = n := by
  cases p with
  | pot0 => exact BitVec.extractLsb'_append_eq_right
  | pot1 => exact BitVec.extractLsb'_append_eq_left

theorem tconPot_tconWithPot_other {q : Pot} (other : q ≠ p) :
    tconPot (tconWithPot t p n) q = tconPot t q := by
  cases p <;> cases q
  case pot0.pot1 => exact BitVec.extractLsb'_append_eq_left
  case pot1.pot0 => exact BitVec.extractLsb'_append_eq_right
  all_goals exact absurd rfl other

theorem tconWithPot_tconPot : tconWithPot t p (tconPot t p) = t := by
  cases p <;> exact BitVec.extractLsb'_append_extractLsb'

end pots

end Machine

end Sys2Proof

open Sys2Proof Sys2Proof.Machine

/-- Settles O4: the OR of the shifted fields is their concatenation (`cmdByte_eq_append`). -/
theorem commandByteComposition : Obligations.CommandByteComposition :=
  ⟨fun op a => ⟨rfl, cmdByte_eq_append op a⟩, by decide, by decide⟩

/-- Settles O8, by `join9_split9` and `split9_join9`. -/
theorem splitJoinInverse : Obligations.SplitJoinInverse :=
  ⟨fun d => ⟨rfl, join9_split9 d⟩, fun h l => ⟨rfl, split9_join9 h l⟩, by decide⟩

/-- Settles O9, by the two forms of the response word and the two round trips of its view. -/
theorem longResponseViewLossless : Obligations.LongResponseViewLossless :=
  ⟨fun r0 r1 => ⟨rfl, respWord_eq_or r0 r1, respWord_high r0 r1, respWord_low r0 r1⟩,
    fun w => ⟨rfl, packLong_unpackLong w⟩, fun r => ⟨rfl, unpackLong_packLong r⟩, by decide⟩

/-- Settles O10: the mask clauses are `data9_mask` and `zext16_data9`; each of the three uses is `data9`
itself. -/
theorem dataExtractor : Obligations.DataExtractor :=
  ⟨fun w => ⟨rfl, (data9_mask w).symm, zext16_data9 w, rfl, rfl⟩, data9_zext16, fun _ _ => rfl,
    by decide⟩

/-- Settles O11, by the two round trips of the view. -/
theorem shortResponseViewLossless : Obligations.ShortResponseViewLossless :=
  ⟨fun b => ⟨rfl, packShort_unpackShort b⟩, fun r => ⟨rfl, unpackShort_packShort r⟩, by decide⟩

/-- Settles O13, by the laws of reading and replacing a nibble, at each pot. -/
theorem tconPotLaws : Obligations.TconPotLaws :=
  ⟨fun t => ⟨rfl, rfl, tconPot_eq_shift t .pot0, tconPot_eq_shift t .pot1⟩,
    fun t n => ⟨rfl, rfl, tconPot_tconWithPot_same t .pot0 n, tconPot_tconWithPot_same t .pot1 n,
      tconPot_tconWithPot_other t .pot0 n (by decide), tconPot_tconWithPot_other t .pot1 n (by decide)⟩,
    tconWithPot_tconPot, by decide⟩

/-- Settles O16: a position survives the widening, the mask and so the write (`data9_zext16`). -/
theorem wiperValueUnclamped : Obligations.WiperValueUnclamped :=
  ⟨fun _ => rfl, fun p => ⟨rfl, wiperOfValue_valueOfWiper p⟩, valueOfWiper_high, fun _ _ => rfl,
    commandOf_writeRegister_valueOfWiper, by decide⟩
end

section
/-! PROOF. The decoder (R51 to R54, R63 to R68): a first octet is an address code, an opcode and two low
bits, and the decoder takes it apart where the encoder put it together. -/

namespace Sys2Proof

/-! ### The fields of a first octet -/

/-- Bits 1:0 of a first octet (R51). -/
def lowField (b0 : Octet) : BitVec 2 := b0.extractLsb' 0 2

theorem octet_eq_fields (b0 : Octet) : addrField b0 ++ opField b0 ++ lowField b0 = b0 := by
  have upper : addrField b0 ++ opField b0 = b0.extractLsb' 2 6 :=
    BitVec.extractLsb'_append_extractLsb'_eq_extractLsb' rfl
  rw [upper]
  exact BitVec.extractLsb'_append_extractLsb' (w := 6) (len := 2)

theorem cmdByte_or_low (op : Opcode) (a : RegAddr) (low : BitVec 2) :
    cmdByte op a ||| zext8 low = a.code ++ op.code ++ low := by
  revert low
  cases op <;> cases a <;> decide

@[simp] theorem lowField_cmdByte (op : Opcode) (a : RegAddr) : lowField (cmdByte op a) = 0 := by
  rw [cmdByte_eq_append]
  exact BitVec.extractLsb'_append_eq_right

/-- Every code of two bits is the code of the opcode it names (R6). -/
theorem Opcode.code_ofCode (c : BitVec 2) : (Opcode.ofCode c).code = c := by
  revert c; decide

/-- A first octet is the command byte of the register and the opcode it names, with its low bits. -/
theorem octet_eq_cmdByte {b0 : Octet} {a : RegAddr} {op : Opcode}
    (ha : RegAddr.ofCode (addrField b0) = some a) (ho : Opcode.ofCode (opField b0) = op) :
    b0 = cmdByte op a ||| zext8 (lowField b0) := by
  rw [cmdByte_or_low, RegAddr.code_of_ofCode ha, ← ho, Opcode.code_ofCode, octet_eq_fields]

/-- The two low bits, where the upper one is 0: the payload bit of a WRITE (R54). -/
theorem zext8_lowField {b0 : Octet} (h : b0.getLsbD 1 = false) :
    zext8 (lowField b0) = zext8 (BitVec.ofBool (b0.getLsbD 0)) := by
  revert b0; decide

/-- A WRITE's first octet: the payload bit leaves the register, the opcode and bit 1 as they are. -/
theorem writeOctet_fields (a : RegAddr) (b : Bit) :
    addrField (cmdByte .write a ||| zext8 (BitVec.ofBool b)) = a.code ∧
    opField (cmdByte .write a ||| zext8 (BitVec.ofBool b)) = Opcode.write.code ∧
    (cmdByte .write a ||| zext8 (BitVec.ofBool b)).getLsbD 1 = false ∧
    (cmdByte .write a ||| zext8 (BitVec.ofBool b)).getLsbD 0 = b := by
  cases a <;> cases b <;> decide

/-! ### Decoding what was encoded -/

/-- The reader of an opcode's octets, the first octet apart (R68). -/
def readerOf : Opcode → RegAddr → Octet → List Octet → Except DecodeError (Instr × List Octet)
  | .write => decodeWrite
  | .incr  => decodeShort .incr
  | .decr  => decodeShort .decr
  | .read  => decodeRead

/-- The decoder goes by the register and the opcode that the first octet names. -/
theorem decode_cons {b0 : Octet} {a : RegAddr} (rest : List Octet)
    (ha : RegAddr.ofCode (addrField b0) = some a) :
    decode (b0 :: rest) = readerOf (Opcode.ofCode (opField b0)) a b0 rest := by
  simp only [decode, ha]
  cases Opcode.ofCode (opField b0) <;> rfl

theorem decode_of_codes {b0 : Octet} {a : RegAddr} {op : Opcode} (rest : List Octet)
    (ha : addrField b0 = a.code) (ho : opField b0 = op.code) :
    decode (b0 :: rest) = readerOf op a b0 rest := by
  rw [decode_cons rest (by rw [ha, RegAddr.ofCode_code]), ho, Opcode.ofCode_code]

theorem decodeShort_cmdByte (mk : WiperSel → Instr) (op : Opcode) (w : WiperSel) (rest : List Octet) :
    decodeShort mk w.toReg (cmdByte op w.toReg) rest = .ok (mk w, rest) := by
  have low : (cmdByte op w.toReg).extractLsb' 0 2 = 0 := lowField_cmdByte op w.toReg
  simp [decodeShort, low]

theorem decode_encode (i : Instr) (rest : List Octet) : decode (encode i ++ rest) = .ok (i, rest) := by
  cases i with
  | write a d =>
    obtain ⟨ha, ho, bit1, bit0⟩ := writeOctet_fields a (split9 d).1
    calc decode (encode (.write a d) ++ rest)
        = decodeWrite a (cmdByte .write a ||| zext8 (BitVec.ofBool (split9 d).1))
            ((split9 d).2 :: rest) := decode_of_codes _ ha ho
      _ = .ok (.write a d, rest) := by simp only [decodeWrite, bit1, bit0, join9_split9]; rfl
  | read a =>
    have low : (cmdByte .read a).extractLsb' 0 2 = 0 := lowField_cmdByte .read a
    calc decode (encode (.read a) ++ rest)
        = decodeRead a (cmdByte .read a) (Config.readFiller :: rest) :=
          decode_of_codes _ (addrField_cmdByte ..) (opField_cmdByte ..)
      _ = .ok (.read a, rest) := by simp [decodeRead, low]
  | incr w =>
    calc decode (encode (.incr w) ++ rest)
        = decodeShort .incr w.toReg (cmdByte .incr w.toReg) rest :=
          decode_of_codes _ (addrField_cmdByte ..) (opField_cmdByte ..)
      _ = .ok (.incr w, rest) := decodeShort_cmdByte ..
  | decr w =>
    calc decode (encode (.decr w) ++ rest)
        = decodeShort .decr w.toReg (cmdByte .decr w.toReg) rest :=
          decode_of_codes _ (addrField_cmdByte ..) (opField_cmdByte ..)
      _ = .ok (.decr w, rest) := decodeShort_cmdByte ..

/-! ### What decodes was encoded -/

/-- Octets that decode name a register and an opcode, and that opcode's reader takes them. -/
theorem decode_eq_ok {octets : List Octet} {x : Instr × List Octet} (h : decode octets = .ok x) :
    ∃ b0 more a op, octets = b0 :: more ∧ b0 = cmdByte op a ||| zext8 (lowField b0) ∧
      readerOf op a b0 more = .ok x := by
  cases octets with
  | nil => cases h
  | cons b0 more =>
    cases ha : RegAddr.ofCode (addrField b0) with
    | none => simp [decode, ha] at h
    | some a => exact ⟨b0, more, a, _, rfl, octet_eq_cmdByte ha rfl, by rw [← decode_cons more ha, h]⟩

theorem decodeShort_eq_ok {mk : WiperSel → Instr} {a : RegAddr} {b0 : Octet} {more : List Octet}
    {x : Instr × List Octet} (h : decodeShort mk a b0 more = .ok x) :
    ∃ w, a = w.toReg ∧ lowField b0 = 0 ∧ x = (mk w, more) := by
  unfold decodeShort at h
  split at h
  case h_1 => cases h
  case h_2 w hw =>
    split at h
    case isTrue low => exact ⟨w, by cases a <;> cases hw <;> rfl, low, by cases h; rfl⟩
    case isFalse => cases h

theorem decodeWrite_eq_ok {a : RegAddr} {b0 : Octet} {more : List Octet} {x : Instr × List Octet}
    (h : decodeWrite a b0 more = .ok x) :
    ∃ b1 rest, more = b1 :: rest ∧ b0.getLsbD 1 = false ∧
      x = (.write a (join9 (b0.getLsbD 0) b1), rest) := by
  cases more with
  | nil => cases h
  | cons b1 rest =>
    cases bit1 : b0.getLsbD 1 with
    | true => simp [decodeWrite, bit1] at h
    | false =>
      simp only [decodeWrite, bit1] at h
      exact ⟨b1, rest, rfl, rfl, by cases h; rfl⟩

theorem decodeRead_cons (a : RegAddr) (b0 b1 : Octet) (rest : List Octet) :
    decodeRead a b0 (b1 :: rest) =
      if lowField b0 = 0 then
        if b1 = Config.readFiller then .ok (.read a, rest) else .error (.wrongFiller b1)
      else .error .zeroBitSet := rfl

theorem decodeRead_eq_ok {a : RegAddr} {b0 : Octet} {more : List Octet} {x : Instr × List Octet}
    (h : decodeRead a b0 more = .ok x) :
    ∃ rest, more = Config.readFiller :: rest ∧ lowField b0 = 0 ∧ x = (.read a, rest) := by
  cases more with
  | nil => cases h
  | cons b1 rest =>
    rw [decodeRead_cons] at h
    split at h
    case isTrue low =>
      split at h
      case isTrue filler => exact ⟨rest, by rw [filler], low, by cases h; rfl⟩
      case isFalse => cases h
    case isFalse => cases h

theorem encode_of_decode {octets rest : List Octet} {i : Instr} (h : decode octets = .ok (i, rest)) :
    octets = encode i ++ rest := by
  obtain ⟨b0, more, a, op, rfl, fields, read⟩ := decode_eq_ok h
  rw [fields]
  cases op with
  | write =>
    obtain ⟨b1, _, rfl, bit1, ⟨⟩⟩ := decodeWrite_eq_ok read
    rw [zext8_lowField bit1, encode, encodeWrite, split9_join9]
    rfl
  | read =>
    obtain ⟨_, rfl, low, ⟨⟩⟩ := decodeRead_eq_ok read
    simp [low, encode, encodeRead]
  | incr =>
    obtain ⟨w, rfl, low, ⟨⟩⟩ := decodeShort_eq_ok read
    simp [low, encode, encodeIncr]
  | decr =>
    obtain ⟨w, rfl, low, ⟨⟩⟩ := decodeShort_eq_ok read
    simp [low, encode, encodeDecr]

/-! ### Octets that are no command -/

theorem RegAddr.ofCode_eq_none {c : BitVec 4} (h : c ∉ [0x0#4, 0x1#4, 0x4#4, 0x5#4]) :
    RegAddr.ofCode c = none := by
  revert c; decide

theorem RegAddr.ofCode_of_nonWiper {c : BitVec 4} (h : c ∈ [0x4#4, 0x5#4]) :
    ∃ a : RegAddr, RegAddr.ofCode c = some a ∧ a.toWiper = none ∧ a.code = c := by
  obtain rfl | rfl : c = 0x4#4 ∨ c = 0x5#4 := by simpa using h
  · exact ⟨.tcon, rfl, rfl, rfl⟩
  · exact ⟨.status, rfl, rfl, rfl⟩

theorem Opcode.ofCode_of_short {c : BitVec 2} (h : c ∈ [0b01#2, 0b10#2]) :
    Opcode.ofCode c = .incr ∨ Opcode.ofCode c = .decr := by
  obtain rfl | rfl : c = 0b01#2 ∨ c = 0b10#2 := by simpa using h
  · exact .inl rfl
  · exact .inr rfl

theorem decode_unknownAddress {b0 : Octet} (rest : List Octet)
    (h : addrField b0 ∉ [0x0#4, 0x1#4, 0x4#4, 0x5#4]) :
    decode (b0 :: rest) = .error (.unknownAddress (addrField b0)) := by
  simp only [decode, RegAddr.ofCode_eq_none h]

theorem decode_shortOnNonWiper {b0 : Octet} (rest : List Octet) (haddr : addrField b0 ∈ [0x4#4, 0x5#4])
    (hop : opField b0 ∈ [0b01#2, 0b10#2]) :
    decode (b0 :: rest) = .error (.shortOnNonWiper (addrField b0)) := by
  obtain ⟨a, ha, nonWiper, code⟩ := RegAddr.ofCode_of_nonWiper haddr
  obtain ho | ho := Opcode.ofCode_of_short hop <;>
    simp only [decode, ha, ho, decodeShort, nonWiper, code]

end Sys2Proof

open Sys2Proof Sys2Proof.Machine

/-- Settles O1: the first octet's fields are the encoder's (`writeOctet_fields`, `addrField_cmdByte`,
`opField_cmdByte`, `lowField_cmdByte`), and the reader of that opcode undoes each encoder. -/
theorem decodeOfEncode : Obligations.DecodeOfEncode := decode_encode

/-- Settles O2, by inversion of the decoder: a first octet that is read has the command's fields. -/
theorem encodeOfDecode : Obligations.EncodeOfDecode := fun _ _ _ => encode_of_decode

/-- Settles O3: each word is evaluated. -/
theorem decodeSpecWords : Obligations.DecodeSpecWords := by
  unfold Obligations.DecodeSpecWords
  decide

/-- Settles O5: the two address checks come before anything else is read. -/
theorem illegalAddressesRejected : Obligations.IllegalAddressesRejected :=
  fun _ rest => ⟨decode_unknownAddress rest, decode_shortOnNonWiper rest⟩

/-- Settles O6: a first octet is a command byte, whose low bits are 0 but for the payload bit of a WRITE. -/
theorem lengthAndZeroBits : Obligations.LengthAndZeroBits := by
  intro i
  cases i with
  | write a d =>
    obtain ⟨-, ho, bit1, -⟩ := writeOctet_fields a (split9 d).1
    rw [opField] at ho
    refine ⟨_, _, rfl, bit1, ?_, ?_, ?_⟩ <;> simp [ho, Opcode.code]
  | read a => exact ⟨_, _, rfl, by cases a <;> decide⟩
  | incr w => exact ⟨_, _, rfl, by cases w <;> decide⟩
  | decr w => exact ⟨_, _, rfl, by cases w <;> decide⟩
end

section
/-! PROOF. The codecs of the control and the status register (R88 to R94, R99), the optional-result wrapper
(R130) and the transforms (R140). -/

namespace Sys2Proof

/-! ### Replacing one bit of a word -/

/-- Clearing a bit and putting another in its place changes no other bit: the form of R92 and R94. -/
theorem getLsbD_replaceBit {w : Nat} (x : BitVec w) (b : Bit) {i : Nat} (hi : i < w) (j : Nat) :
    ((x &&& ~~~(1#w <<< i)) ||| ((BitVec.ofBool b).setWidth w <<< i)).getLsbD j =
      if j = i then b else x.getLsbD j := by
  by_cases hj : j < w
  · by_cases same : j = i
    · subst same
      simp [hj]
    · rcases Nat.lt_or_gt_of_ne same with below | above
      · simp [hj, below, Nat.ne_of_lt below]
      · have place : j - i ≠ 0 := by omega
        simp [hj, same, place, Nat.not_lt_of_gt above]
  · have other : j ≠ i := by omega
    rw [if_neg other, BitVec.getLsbD_of_ge x j (by omega), BitVec.getLsbD_of_ge _ j (by omega)]

namespace Machine

/-! ### The flags of the control register (R92, R99) -/

theorem flagBit_lt (p : Pot) (k : TconFlag) : flagBit p k < 8 := by
  cases p <;> cases k <;> decide

theorem tconWithFlag_getLsbD (t : Octet) (p : Pot) (k : TconFlag) (b : Bit) (j : Nat) :
    (tconWithFlag t p k b).getLsbD j = if j = flagBit p k then b else t.getLsbD j :=
  getLsbD_replaceBit t b (flagBit_lt p k) j

theorem tconFlag_tconWithFlag (t : Octet) (p : Pot) (k : TconFlag) (b : Bit) :
    tconFlag (tconWithFlag t p k b) p k = b := by
  rw [tconFlag, tconWithFlag_getLsbD, if_pos rfl]

theorem tconWithFlag_tconFlag (t : Octet) (p : Pot) (k : TconFlag) :
    tconWithFlag t p k (tconFlag t p k) = t := by
  apply BitVec.eq_of_getLsbD_eq
  intro j _
  rw [tconWithFlag_getLsbD]
  split
  case isTrue place => rw [place, tconFlag]
  case isFalse => rfl

/-- The `tcon` octet goes back below bit 8 of the value it was taken from (R99). -/
theorem valueWithTcon_getLsbD (v : Word16) (t : Octet) (j : Nat) :
    (valueWithTcon v t).getLsbD j = if j < 8 then t.getLsbD j else v.getLsbD j := by
  rw [valueWithTcon, BitVec.getLsbD_append]
  split
  case isTrue => rfl
  case isFalse high =>
    have place : 8 + (j - 8) = j := by omega
    by_cases hj : j < 16
    · have inside : j - 8 < 8 := by omega
      simp [place, inside]
    · rw [BitVec.getLsbD_of_ge v j (by omega), BitVec.getLsbD_of_ge _ _ (by omega)]

theorem tconOfValue_getLsbD (v : Word16) {j : Nat} (hj : j < 8) :
    (tconOfValue v).getLsbD j = v.getLsbD j := by
  simp [tconOfValue, hj]

theorem applyTransform_tconFlag_getLsbD (v : Word16) (p : Pot) (k : TconFlag) (b : Bit) (j : Nat) :
    (applyTransform (.tconFlag p k b) v).getLsbD j = if j = flagBit p k then b else v.getLsbD j := by
  rw [applyTransform, valueWithTcon_getLsbD]
  split
  case isTrue low => rw [tconWithFlag_getLsbD, tconOfValue_getLsbD v low]
  case isFalse high =>
    have other : j ≠ flagBit p k := fun same => high (same ▸ flagBit_lt p k)
    rw [if_neg other]

/-! ### The two views (R88, R89, R93, R94) -/

theorem packPot_unpackPot (n : Nibble) : packPot (unpackPot n) = n := by
  revert n; decide

theorem unpackPot_packPot (p : PotCtl) : unpackPot (packPot p) = p := by
  obtain ⟨termB, wiper, termA, started⟩ := p
  cases termB <;> cases wiper <;> cases termA <;> cases started <;> rfl

theorem packTcon_unpackTcon (t : Octet) : packTcon (unpackTcon t) = t := by
  rw [packTcon, unpackTcon, packPot_unpackPot, packPot_unpackPot]
  exact BitVec.extractLsb'_append_extractLsb'

theorem unpackTcon_packTcon (v : TconView) : unpackTcon (packTcon v) = v := by
  have low : (packTcon v).extractLsb' 0 4 = packPot v.pot0 := BitVec.extractLsb'_append_eq_right
  have high : (packTcon v).extractLsb' 4 4 = packPot v.pot1 := BitVec.extractLsb'_append_eq_left
  rw [unpackTcon, low, high, unpackPot_packPot, unpackPot_packPot]

/-- The flags of a nibble cut from an octet are that octet's bits (R18). -/
theorem unpackPot_extractLsb' (t : Octet) (i : Nat) :
    unpackPot (t.extractLsb' i 4) =
      ⟨t.getLsbD i, t.getLsbD (i + 1), t.getLsbD (i + 2), t.getLsbD (i + 3)⟩ := by
  simp [unpackPot]

theorem sregWithShutdown_getLsbD (s : Word16) (b : Bit) (j : Nat) :
    (sregWithShutdown s b).getLsbD j = if j = 1 then b else s.getLsbD j := by
  have mask : 0xFFFD#16 = ~~~(1#16 <<< 1) := by decide
  rw [sregWithShutdown, mask]
  exact getLsbD_replaceBit s b (by decide) j

theorem packSreg_unpackSreg (s : Word16) : packSreg (unpackSreg s) = s := by
  rw [packSreg, unpackSreg, ofBool_getLsbD s 0]
  exact append_bit_append_of_fields (m := 14) (n := 1) s

theorem unpackSreg_packSreg (v : SregView) : unpackSreg (packSreg v) = v := by
  obtain ⟨rsvHi, shutdown, rsvLo⟩ := v
  rw [unpackSreg, packSreg, SregView.mk.injEq]
  refine ⟨high_of_append_bit_append .., bit_of_append_bit_append .., ?_⟩
  rw [BitVec.append_ofBool]
  exact BitVec.getLsbD_concat_zero

/-! ### The optional-result wrapper (R130) -/

theorem wrapRead_high {r : Reply} {v : Word16} (h : wrapRead r = some v) : v.extractLsb' 9 7 = 0 := by
  cases r with
  | ok r0 r1 =>
    rw [wrapRead] at h
    split at h
    · cases h; exact valueOfWiper_high _
    · cases h
  | fail => cases h
  | silent => cases h

/-! ### Transforms (R140) -/

/-- The entries that write a function out at the given arguments. -/
def entriesOf (f : Word16 → Word16) (args : List Word16) : List (Word16 × Word16) :=
  args.map fun x => (x, f x)

theorem tableApply_entriesOf (f : Word16 → Word16) {args : List Word16} {v : Word16} (h : v ∈ args) :
    tableApply (entriesOf f args) v = f v := by
  induction args with
  | nil => cases h
  | cons x args ih =>
    rw [entriesOf, List.map_cons, tableApply]
    by_cases found : v = x
    · rw [if_pos found, found]
    · rw [if_neg found]
      exact ih (List.mem_of_ne_of_mem found h)

/-- Every 16-bit value. -/
def allWords : List Word16 := (List.finRange (2 ^ 16)).map BitVec.ofFin

theorem mem_allWords (v : Word16) : v ∈ allWords :=
  List.mem_map.mpr ⟨v.toFin, List.mem_finRange _, rfl⟩

end Machine

end Sys2Proof

open Sys2Proof Sys2Proof.Machine

/-- Settles O12: each pot's view is lossless over its sixteen nibbles, and the octet is its two nibbles. -/
theorem tconViewLossless : Obligations.TconViewLossless :=
  ⟨fun t => ⟨packTcon_unpackTcon t, packPot_unpackPot _, packPot_unpackPot _,
      unpackPot_extractLsb' t 0, unpackPot_extractLsb' t 4⟩,
    unpackTcon_packTcon⟩

/-- Settles O14: each replacement is `getLsbD_replaceBit`, of the octet or of the 16-bit value. -/
theorem flagReplacementLeavesOtherBits : Obligations.FlagReplacementLeavesOtherBits :=
  ⟨by decide, fun t p k => ⟨rfl, tconWithFlag_tconFlag t p k⟩, tconFlag_tconWithFlag,
    tconWithFlag_getLsbD, applyTransform_tconFlag_getLsbD, sregWithShutdown_getLsbD, by decide⟩

/-- Settles O15, by the two round trips of the view; the shutdown flag replaced is bit 1. -/
theorem sregViewLossless : Obligations.SregViewLossless :=
  ⟨fun s => ⟨rfl, rfl, packSreg_unpackSreg s⟩, unpackSreg_packSreg,
    fun s b => sregWithShutdown_getLsbD s b 1, by decide⟩

/-- Settles O17: the acknowledgement and the payload are fields of the response word. -/
theorem optionalResultWrapper : Obligations.OptionalResultWrapper :=
  ⟨⟨rfl, rfl, rfl⟩, fun _ _ => ⟨rfl, rfl, rfl⟩, fun _ _ => wrapRead_high⟩

/-- Settles O18: the table of all 65536 arguments. -/
theorem everyTransformExpressible : Obligations.EveryTransformExpressible :=
  fun f => ⟨.table (entriesOf f allWords), fun v => tableApply_entriesOf f (mem_allWords v)⟩
end

section
/-! PROOF. The four wire commands (R110 to R117): the octets each sends, the whole next state for each thing
the far end may do, what stays unchanged, and when a command is refused. -/

namespace Sys2Proof

/-! ### The octets of a command (R52, R53) -/

theorem encode_read (a : RegAddr) : encode (.read a) = [a.code ++ (0b1100 : BitVec 4), 0xFF] := by
  cases a <;> rfl

theorem encode_incr (w : WiperSel) : encode (.incr w) = [if w = .wiper0 then 0x04 else 0x14] := by
  cases w <;> rfl

theorem encode_decr (w : WiperSel) : encode (.decr w) = [if w = .wiper0 then 0x08 else 0x18] := by
  cases w <;> rfl

namespace Machine

/-! ### What a command leaves of the block -/

section loadTx
variable (b : Block) (out : List Octet)

/-- The encoder writes `tx0` and `tx1` only (R12). -/
theorem Block.loadTx_eq :
    b.loadTx out = { b with tx0 := (b.loadTx out).tx0, tx1 := (b.loadTx out).tx1 } := by
  rcases out with _ | ⟨t0, _ | ⟨t1, more⟩⟩ <;> rfl

@[simp] theorem Block.loadTx_req : (b.loadTx out).req = b.req := by rw [loadTx_eq]
@[simp] theorem Block.loadTx_held : (b.loadTx out).held = b.held := by rw [loadTx_eq]
@[simp] theorem Block.loadTx_data : (b.loadTx out).data = b.data := by rw [loadTx_eq]
@[simp] theorem Block.loadTx_rx1 : (b.loadTx out).rx1 = b.rx1 := by rw [loadTx_eq]

end loadTx

section latchResponse
variable (b : Block) (k : RespKind) (r0 r1 : Octet)

theorem Block.latchResponse_writeAck : b.latchResponse .writeAck r0 r1 =
    { b with rx0 := some r0, rx1 := some r1, ack := some (r0.getLsbD 1) } := by
  rw [latchResponse, ackLong_eq]

theorem Block.latchResponse_readData : b.latchResponse .readData r0 r1 =
    { b with
      rx0 := some r0, rx1 := some r1, ack := some (r0.getLsbD 1)
      data := if r0.getLsbD 1 then some (BitVec.ofBool (r0.getLsbD 0) ++ r1) else b.data } := by
  rw [latchResponse, ackLong_eq, longData_eq]

@[simp] theorem Block.latchResponse_req : (b.latchResponse k r0 r1).req = b.req := by cases k <;> rfl
@[simp] theorem Block.latchResponse_held : (b.latchResponse k r0 r1).held = b.held := by cases k <;> rfl
@[simp] theorem Block.latchResponse_tx0 : (b.latchResponse k r0 r1).tx0 = b.tx0 := by cases k <;> rfl
@[simp] theorem Block.latchResponse_tx1 : (b.latchResponse k r0 r1).tx1 = b.tx1 := by cases k <;> rfl
@[simp] theorem Block.latchResponse_cs : (b.latchResponse k r0 r1).cs = b.cs := by cases k <;> rfl

/-- Every response writes the acknowledgement, bit 1 of its first octet (R61). -/
@[simp] theorem Block.latchResponse_ack :
    (b.latchResponse k r0 r1).ack = some (r0.getLsbD 1) := by
  cases k <;> simp [latchResponse]

theorem Block.latchResponse_data (h : k ≠ .readData) : (b.latchResponse k r0 r1).data = b.data := by
  cases k with
  | readData => exact absurd rfl h
  | writeAck => rfl
  | shortAck => rfl

end latchResponse

/-- The latches once the far end has done what it does at a poll (R12, R61). -/
def Block.afterReply (b : Block) (k : RespKind) : Reply → Block
  | .silent   => b
  | .fail     => { b with ack := some false }
  | .ok r0 r1 => b.latchResponse k r0 r1

section afterReply
variable (b : Block) (k : RespKind) (r : Reply)

@[simp] theorem Block.afterReply_req : (b.afterReply k r).req = b.req := by
  cases r <;> simp [afterReply]
@[simp] theorem Block.afterReply_held : (b.afterReply k r).held = b.held := by
  cases r <;> simp [afterReply]
@[simp] theorem Block.afterReply_tx1 : (b.afterReply k r).tx1 = b.tx1 := by
  cases r <;> simp [afterReply]

theorem Block.afterReply_data (h : k ≠ .readData) : (b.afterReply k r).data = b.data := by
  cases r <;> simp [afterReply, latchResponse_data, h]

theorem Block.afterReply_shortAck_rx1 : (b.afterReply .shortAck r).rx1 = b.rx1 := by
  cases r <;> rfl

end afterReply

/-! ### A command where no bracket is open -/

section ready
variable {i : Instr} {s : State} {out : List Octet} (ready : s.ready) (hout : encode i = out)
include ready

theorem exec_of_ready : exec i s = .next (transact (encode i) (respKind i) s) := by
  rw [exec_eq_runCommand, runCommand_of_ready ready]

include hout

theorem exec_of_ok {r0 r1 : Octet} (h : farReply s out = .ok r0 r1) :
    exec i s = .next (bracketed s out (.ok (received (respKind i) r0 r1))
      ((s.block.loadTx out).latchResponse (respKind i) r0 r1)) := by
  subst hout
  rw [exec_of_ready ready, transact_ok h]

theorem exec_of_fail (h : farReply s out = .fail) :
    exec i s = .next (bracketed s out .fail { s.block.loadTx out with ack := some false }) := by
  subst hout
  rw [exec_of_ready ready, transact_fail h]

theorem exec_of_silent (h : farReply s out = .silent) :
    exec i s = .next (waitingBracket s out (s.block.loadTx out)) := by
  subst hout
  rw [exec_of_ready ready, transact_silent h]

end ready

/-- A command's next state: the far end's part as a poll leaves it, events added, the latches as the encoder
and the reply leave them. -/
theorem exec_frame {i : Instr} {s t : State} (h : exec i s = .next t) :
    ∃ cs phase events, t = { afterPoll s (encode i) with
      block := { (s.block.loadTx (encode i)).afterReply (respKind i) (farReply s (encode i)) with
        cs := cs, phase := phase }
      trace := s.trace ++ events } := by
  obtain ⟨-, ⟨hr, rfl⟩ | ⟨hr, rfl⟩ | ⟨r0, r1, hr, rfl⟩⟩ := exec_cases h <;> rw [hr] <;>
    exact ⟨_, _, _, rfl⟩

theorem exec_eq_refused (i : Instr) (s : State) :
    exec i s = .refused .bracketOpen ↔ s.block.phase = .selected ∨ s.block.phase = .answered := by
  rw [exec_eq_runCommand]
  cases hp : s.block.phase <;> simp [runCommand, hp]

/-! ### The peer during an exchange -/

theorem peerAfter_arguments (s : State) (out : List Octet) :
    (peerAfter s out).accept = s.peer.accept ∧ (peerAfter s out).wiperMax = s.peer.wiperMax := by
  unfold peerAfter
  split
  · exact ⟨rfl, rfl⟩
  · exact ⟨rfl, rfl⟩
  · split
    · exact ⟨rfl, rfl⟩
    · exact Peer.respond_arguments ..

section respond
variable (p : Peer)

/-- The reference peer reads each command of the block as that command (R72). -/
theorem Peer.respond_encode_read (a : RegAddr) : p.respond (encode (.read a)) = p.onRead a := by
  simp [encode, encodeRead, respond, onLong]

theorem Peer.respond_encode_write (a : RegAddr) (d : Data9) :
    p.respond (encode (.write a d)) = p.onWrite a d := by
  obtain ⟨ha, ho, -, bit0⟩ := writeOctet_fields a (split9 d).1
  simp only [encode, encodeWrite, respond, onLong, ha, ho, bit0, RegAddr.ofCode_code,
    Opcode.ofCode_code, join9_split9]

theorem Peer.respond_encode_incr (w : WiperSel) : p.respond (encode (.incr w)) = p.onIncr w := by
  simp [encode, encodeIncr, respond, onShort]

theorem Peer.respond_encode_decr (w : WiperSel) : p.respond (encode (.decr w)) = p.onDecr w := by
  simp [encode, encodeDecr, respond, onShort]

/-- The reference peer writes at most one register, the one the command changes. -/
theorem Peer.respond_regs (i : Instr) :
    (p.respond (encode i)).1.regs = p.regs ∨
    ∃ a d, changes i = some a ∧ (p.respond (encode i)).1.regs = PeerRegs.write p.regs a d := by
  cases i with
  | read a =>
    rw [respond_encode_read, onRead]
    split <;> exact .inl rfl
  | write a d =>
    rw [respond_encode_write, onWrite]
    split <;> [exact .inr ⟨a, d, rfl, rfl⟩; exact .inl rfl]
  | incr w =>
    rw [respond_encode_incr, onIncr]
    split <;> [exact .inr ⟨w.toReg, _, rfl, rfl⟩; exact .inl rfl]
  | decr w =>
    rw [respond_encode_decr, onDecr]
    split <;> [exact .inr ⟨w.toReg, _, rfl, rfl⟩; exact .inl rfl]

theorem Peer.respond_other_register {i : Instr} {a : RegAddr} (h : changes i ≠ some a) :
    PeerRegs.read (p.respond (encode i)).1.regs a = PeerRegs.read p.regs a := by
  obtain same | ⟨b, d, changed, written⟩ := p.respond_regs i
  · rw [same]
  · have other : a ≠ b := fun eq => h (eq ▸ changed)
    rw [written, PeerRegs.read_write_other _ _ other]

end respond

theorem peerAfter_other_register {i : Instr} {a : RegAddr} {s : State} (far : s.far = .reference)
    (h : changes i ≠ some a) :
    PeerRegs.read (peerAfter s (encode i)).regs a = PeerRegs.read s.peer.regs a := by
  simp only [peerAfter, far]
  split
  · rfl
  · exact Peer.respond_other_register s.peer h

end Machine

end Sys2Proof

open Sys2Proof Sys2Proof.Machine

/-- Settles O19: the bracket of a WRITE (`exec_of_ok`, `exec_of_fail`, `exec_of_silent`). -/
theorem writeCommandEffect : Obligations.WriteCommandEffect := by
  intro a d s ready t0 t1 b
  have out := encode_write a d
  refine ⟨fun r0 r1 h => ?_, exec_of_fail ready out, exec_of_silent ready out⟩
  rw [exec_of_ok ready out h, respKind, Block.latchResponse_writeAck]
  rfl

/-- Settles O20: the bracket of a READ. -/
theorem readCommandEffect : Obligations.ReadCommandEffect := by
  intro a s ready t0 b
  have out := encode_read a
  refine ⟨fun r0 r1 h => ?_, exec_of_fail ready out, exec_of_silent ready out⟩
  rw [exec_of_ok ready out h, respKind, Block.latchResponse_readData]
  rfl

/-- Settles O21: the bracket of an INCR. -/
theorem incrCommandEffect : Obligations.IncrCommandEffect := by
  intro w s ready t0 b
  have out := encode_incr w
  exact ⟨fun _ _ => exec_of_ok ready out, exec_of_fail ready out, exec_of_silent ready out⟩

/-- Settles O22: the bracket of a DECR. -/
theorem decrCommandEffect : Obligations.DecrCommandEffect := by
  intro w s ready t0 b
  have out := encode_decr w
  exact ⟨fun _ _ => exec_of_ok ready out, exec_of_fail ready out, exec_of_silent ready out⟩

/-- Settles O23: the latches by `Block.loadTx_eq` and the lemmas about `Block.afterReply`, the peer by
`peerAfter_arguments` and `peerAfter_other_register`. -/
theorem commandFrame : Obligations.CommandFrame := by
  intro i s t h
  obtain ⟨cs, phase, events, rfl⟩ := exec_frame h
  obtain ⟨accept, wiperMax⟩ := peerAfter_arguments s (encode i)
  refine ⟨by simp, by simp, fun notRead => ?_, ?_, rfl, rfl, accept, wiperMax,
    fun far => ⟨by simp [far, FarEnd.afterPoll], fun a => peerAfter_other_register far⟩, events, rfl⟩
  · have kind : respKind i ≠ .readData := by
      cases i with
      | read a => exact absurd rfl (notRead a)
      | write a d => nofun
      | incr w => nofun
      | decr w => nofun
    simp [Block.afterReply_data _ _ _ kind]
  · rintro ⟨w, rfl | rfl⟩
    · exact ⟨by simp [encode, encodeIncr, Block.loadTx],
        by simp [respKind, Block.afterReply_shortAck_rx1]⟩
    · exact ⟨by simp [encode, encodeDecr, Block.loadTx],
        by simp [respKind, Block.afterReply_shortAck_rx1]⟩

/-- Settles O24: `runCommand` looks at the phase alone. -/
theorem commandRefusedWhileBracketOpen : Obligations.CommandRefusedWhileBracketOpen :=
  fun i s => ⟨exec_eq_refused i s, fun ready => ⟨_, exec_of_ready ready⟩⟩
end

section
/-! PROOF. The operations of the register API (R131 to R139, R178, R179): what a step runs, what the API
layer does with the reply to an operation's bracket, and so the whole next state of each operation, answered
at once, answered late, or answered and not yet closed. -/

namespace Sys2Proof.Machine

/-! ### What a step runs -/

theorem takeTurn_env_congr {s s' : State} (h : s'.env = s.env) :
    (takeTurn s').env = (takeTurn s).env := by
  unfold takeTurn
  rw [h]
  split <;> simp [h]

@[simp] theorem farReply_takeTurn (s : State) (out : List Octet) :
    farReply (takeTurn s) out = farReply s out :=
  farReply_congr out (by simp) (by simp) (by simp) (by simp)

section turn
variable {s : State} {r : Request}

theorem nextAction_of_envDue {m : EnvMove} (ready : s.ready) (due : envDue s.env = some m) :
    nextAction s = .environment m := by
  obtain hp | hp := ready <;> simp only [nextAction, hp, due]

theorem nextAction_of_accept {rest : List Request} (hp : s.block.phase = .idle) (quiet : s.quiet)
    (hq : s.requests = r :: rest) : nextAction s = .accept r (commandOf r none) := by
  simp only [nextAction, hp, quiet, hq]

theorem nextAction_of_writeBack (hp : s.block.phase = .between) (quiet : s.quiet)
    (hr : s.block.req = some r) : nextAction s = .writeBack (commandOf r s.block.held) := by
  simp only [nextAction, hp, quiet, hr]

theorem nextAction_of_answered (hp : s.block.phase = .answered) (hr : s.block.req = some r) :
    nextAction s = .close := by
  simp only [nextAction, hp, hr]

/-- A move of the environment that is due is the step's (R8(d)). -/
theorem step_of_envDue {m : EnvMove} (ready : s.ready) (due : envDue s.env = some m) :
    step s = .next (envMove m s) := by
  rw [step, nextAction_of_envDue ready due]

theorem step_of_accept {rest : List Request} (hp : s.block.phase = .idle) (quiet : s.quiet)
    (hq : s.requests = r :: rest) :
    step s = thenDo deliver (exec (commandOf r none) (acceptRequest r s)) := by
  rw [step, nextAction_of_accept hp quiet hq]

theorem step_of_writeBack (hp : s.block.phase = .between) (quiet : s.quiet)
    (hr : s.block.req = some r) :
    step s = thenDo deliver (exec (commandOf r s.block.held) (takeTurn s)) := by
  rw [step, nextAction_of_writeBack hp quiet hr]

theorem step_of_answered (hp : s.block.phase = .answered) (hr : s.block.req = some r) :
    step s = .next (deliver (selDeassert s)) := by
  rw [step, nextAction_of_answered hp hr]

end turn

/-! ### The result of an operation -/

/-- What an operation returns on the acknowledgement of its bracket and the value read in it; `none` where
it is `modify_register`'s read and gave a value, so that the write bracket is to come (R132 to R136). -/
def opResult : Request → (held : Option Word16) → (ack : Bit) → (value : Option Word16) → Option Result
  | .readRegister _, _, _, v           => some (.value v)
  | .writeRegister _ _, _, ack, _      => some (.bit ack)
  | .wiperIncrement _, _, ack, _       => some (.bit ack)
  | .wiperDecrement _, _, ack, _       => some (.bit ack)
  | .modifyRegister _ _, some _, ack, _    => some (.bit ack)
  | .modifyRegister _ _, none, _, none     => some (.bit false)
  | .modifyRegister _ _, none, _, some _   => none

/-- The result on a reply of the far end. -/
abbrev replyResult (r : Request) (held : Option Word16) (reply : Reply) : Option Result :=
  opResult r held (wrapAckLong reply) (wrapRead reply)

/-- The state in which the API layer keeps the value that `modify_register` has read (R136). -/
def holding (v : Word16) (s : State) : State :=
  s.withBlock { s.block with phase := .between, held := some v }

/-- The block between the two brackets of `modify_register`, with the value read held (R13, R136). -/
structure Block.Between (b : Block) (r : Request) (v : Word16) : Prop where
  phase : b.phase = .between
  cs : b.cs = .deasserted
  req : b.req = some r
  held : b.held = some v

section deliver
variable {s : State} {r : Request} {ack : Bit} (hp : s.block.phase = .idle)
  (hr : s.block.req = some r) (ha : s.block.ack = some ack)
include hp hr ha

theorem deliver_of_result {res : Result}
    (h : opResult r s.block.held ack (readResult ack s.block.data) = some res) :
    deliver s = finish res s := by
  cases r with
  | modifyRegister a f =>
    cases hh : s.block.held with
    | some v =>
      rw [hh] at h
      cases h
      simp [deliver, hp, hr, ha, hh]
    | none =>
      cases hv : readResult ack s.block.data with
      | some v => simp [hh, hv, opResult] at h
      | none =>
        rw [hh, hv] at h
        cases h
        simp [deliver, hp, hr, ha, hh, hv]
  | readRegister a => cases h; simp [deliver, hp, hr, ha]
  | writeRegister a v => cases h; simp [deliver, hp, hr, ha]
  | wiperIncrement p => cases h; simp [deliver, hp, hr, ha]
  | wiperDecrement p => cases h; simp [deliver, hp, hr, ha]

theorem deliver_of_value {a : RegAddr} {f : Transform} {v : Word16} (hm : r = .modifyRegister a f)
    (hh : s.block.held = none) (hv : readResult ack s.block.data = some v) :
    deliver s = holding v s := by
  simp [deliver, holding, hp, hr, ha, hm, hh, hv]

end deliver

/-! ### The reply in the latches -/

/-- An exchange is answered by `Fail`, or by as many octets as were sent (R150). -/
theorem answerOf_eq_some {n : Nat} {r : Reply} {ans : Answer} (h : answerOf n r = some ans) :
    (r = .fail ∧ ans = .fail) ∨ ∃ r0 r1, r = .ok r0 r1 ∧ ans = .ok ([r0, r1].take n) := by
  cases r with
  | ok r0 r1 => cases h; exact .inr ⟨r0, r1, rfl, rfl⟩
  | fail => cases h; exact .inl ⟨rfl, rfl⟩
  | silent => cases h

theorem received_eq_take (i : Instr) (r0 r1 : Octet) :
    received (respKind i) r0 r1 = [r0, r1].take (encode i).length := by
  cases i <;> rfl

/-- Short and long responses have the acknowledgement in the same place, bit 1 of the first octet (R56). -/
theorem wrapAckShort_eq (r : Reply) : wrapAckShort r = wrapAckLong r := by
  cases r <;> simp [wrapAckShort, wrapAckLong]

section latches
variable (b : Block) (k : RespKind) {n : Nat} {r : Reply} {ans : Answer} (hans : answerOf n r = some ans)
include hans

theorem Block.afterReply_ack : (b.afterReply k r).ack = some (wrapAckLong r) := by
  obtain ⟨rfl, -⟩ | ⟨r0, r1, rfl, -⟩ := answerOf_eq_some hans
  · rfl
  · simp [afterReply, wrapAckLong]

/-- The API layer reads from the latches what `wrap_read` makes of the reply (R130, R132). -/
theorem readResult_afterReply :
    readResult (wrapAckLong r) (b.afterReply .readData r).data = wrapRead r := by
  obtain ⟨rfl, -⟩ | ⟨r0, r1, rfl, -⟩ := answerOf_eq_some hans
  · rfl
  · cases ack : ackLong r0 r1 <;>
      simp only [readResult, wrapAckLong, wrapRead, Block.afterReply, Block.latchResponse, ack] <;> rfl

end latches

/-- An operation looks at the value read only where its command is a READ (R111). -/
theorem opResult_congr_value {r : Request} {held : Option Word16} (ack : Bit) {v v' : Option Word16}
    (h : respKind (commandOf r held) = .readData → v = v') :
    opResult r held ack v = opResult r held ack v' := by
  cases r with
  | readRegister a => rw [h rfl]
  | modifyRegister a f =>
    cases held with
    | none => rw [h rfl]
    | some w => rfl
  | writeRegister a v => rfl
  | wiperIncrement p => rfl
  | wiperDecrement p => rfl

section closed
variable {s : State} {b : Block} {r : Request} {reply : Reply} {n : Nat} {ans : Answer}
  (block : s.block = { b.afterReply (respKind (commandOf r b.held)) reply with
    cs := .deasserted, phase := .idle })
  (hr : b.req = some r) (hans : answerOf n reply = some ans)
include block hr hans

/-- After a bracket closed on a reply the operation returns what the reply says. -/
theorem deliver_of_replyResult {res : Result} (hres : replyResult r b.held reply = some res) :
    deliver s = finish res s := by
  refine deliver_of_result (r := r) (ack := wrapAckLong reply) ?_ ?_ ?_ ?_ <;> rw [block]
  · simpa using hr
  · exact b.afterReply_ack _ hans
  · refine Eq.trans ?_ hres
    simp only [Block.afterReply_held]
    refine opResult_congr_value _ fun kind => ?_
    rw [kind]
    exact readResult_afterReply b hans

theorem deliver_of_replyValue {a : RegAddr} {f : Transform} {v : Word16}
    (hm : r = .modifyRegister a f) (hh : b.held = none) (hv : wrapRead reply = some v) :
    deliver s = holding v s := by
  refine deliver_of_value (r := r) (ack := wrapAckLong reply) ?_ ?_ ?_ hm ?_ ?_ <;> rw [block]
  · simpa using hr
  · exact b.afterReply_ack _ hans
  · simpa using hh
  · subst hm
    rw [hh]
    exact (readResult_afterReply b hans).trans hv

end closed

/-! ### A bracket that is answered at once -/

theorem exec_of_answer {i : Instr} {s : State} {out : List Octet} {reply : Reply} {ans : Answer}
    (ready : s.ready) (hout : encode i = out) (hf : farReply s out = reply)
    (hans : answerOf out.length reply = some ans) :
    exec i s = .next (bracketed s out ans ((s.block.loadTx out).afterReply (respKind i) reply)) := by
  obtain ⟨rfl, rfl⟩ | ⟨r0, r1, rfl, rfl⟩ := answerOf_eq_some hans
  · exact exec_of_fail ready hout hf
  · rw [exec_of_ok ready hout hf, received_eq_take, hout]
    rfl

theorem finish_bracketed (s : State) (out : List Octet) (ans : Answer) (b : Block) (res : Result) :
    finish res (bracketed s out ans b) = completed s out ans res := by
  simp [finish, bracketed, completed, State.record, State.withBlock]

section command
variable {s : State} {r : Request} {out : List Octet} {reply : Reply} {ans : Answer}
  (ready : s.ready) (hr : s.block.req = some r) (hout : encode (commandOf r s.block.held) = out)
  (hf : farReply s out = reply) (hans : answerOf out.length reply = some ans)
include ready hr hout hf hans

theorem thenDo_exec_of_replyResult {res : Result} (hres : replyResult r s.block.held reply = some res) :
    thenDo deliver (exec (commandOf r s.block.held) s) = .next (completed s out ans res) := by
  have finished := deliver_of_replyResult (b := s.block.loadTx out) (r := r) (res := res)
    (s := bracketed s out ans ((s.block.loadTx out).afterReply (respKind (commandOf r s.block.held)) reply))
    (by simp [bracketed]) (by simpa using hr) hans (by simpa using hres)
  rw [exec_of_answer ready hout hf hans, thenDo_next, finished, finish_bracketed]

theorem thenDo_exec_of_replyValue {a : RegAddr} {f : Transform} {v : Word16}
    (hm : r = .modifyRegister a f) (hh : s.block.held = none) (hv : wrapRead reply = some v) :
    ∃ b : Block, b.req = some r ∧
      thenDo deliver (exec (commandOf r s.block.held) s) = .next (holding v (bracketed s out ans b)) := by
  have kept := deliver_of_replyValue (b := s.block.loadTx out) (r := r)
    (s := bracketed s out ans ((s.block.loadTx out).afterReply (respKind (commandOf r s.block.held)) reply))
    (by simp [bracketed]) (by simpa using hr) hans hm (by simpa using hh) hv
  refine ⟨_, ?_, by rw [exec_of_answer ready hout hf hans, thenDo_next, kept]⟩
  simpa using hr

end command

section accept
variable {s : State} {r : Request} {rest : List Request} {out : List Octet} {reply : Reply} {ans : Answer}
  (hp : s.block.phase = .idle) (quiet : s.quiet) (hq : s.requests = r :: rest)
  (hout : encode (commandOf r none) = out) (hf : farReply s out = reply)
  (hans : answerOf out.length reply = some ans)
include hp quiet hq hout hf hans

/-- The whole step of an operation that is over with its first bracket. -/
theorem step_accept_of_result {res : Result} (hres : replyResult r none reply = some res) :
    step s = .next (completed { takeTurn s with requests := rest } out ans res) := by
  have finished := thenDo_exec_of_replyResult (s := acceptRequest r s) (r := r) (.inl rfl) rfl hout
    (by simpa using hf) hans hres
  have queue : rest = (takeTurn s).requests.tail := by rw [takeTurn_requests, hq]; rfl
  rw [step_of_accept hp quiet hq, queue]
  exact finished

/-- The whole step of `modify_register`'s read, where it gives a value. -/
theorem step_accept_of_value {a : RegAddr} {f : Transform} {v : Word16} (hm : r = .modifyRegister a f)
    (hv : wrapRead reply = some v) :
    ∃ b : Block, b.Between r v ∧ step s = .next { afterPoll { takeTurn s with requests := rest } out with
      block := b
      trace := s.trace ++ [.selAssert, .exchange out ans, .selDeassert] } := by
  obtain ⟨b, hr, next⟩ := thenDo_exec_of_replyValue (s := acceptRequest r s) (r := r) (.inl rfl) rfl hout
    ((farReply_acceptRequest r out s).trans hf) hans hm rfl hv
  have queue : rest = (takeTurn s).requests.tail := by rw [takeTurn_requests, hq]; rfl
  rw [step_of_accept hp quiet hq, queue, ← takeTurn_trace s]
  exact ⟨{ b with cs := .deasserted, phase := .between, held := some v }, ⟨rfl, rfl, hr, rfl⟩, next⟩

end accept

/-- The whole step of `modify_register`'s write bracket. -/
theorem step_writeBack_of_result {s : State} {r : Request} {out : List Octet} {reply : Reply}
    {ans : Answer} {res : Result} (hp : s.block.phase = .between) (quiet : s.quiet)
    (hr : s.block.req = some r) (hout : encode (commandOf r s.block.held) = out)
    (hf : farReply s out = reply) (hans : answerOf out.length reply = some ans)
    (hres : replyResult r s.block.held reply = some res) :
    step s = .next (completed (takeTurn s) out ans res) := by
  rw [step_of_writeBack hp quiet hr, ← takeTurn_block s]
  rw [← takeTurn_block s] at hp hr hout hres
  exact thenDo_exec_of_replyResult (.inr hp) hr hout ((farReply_takeTurn s out).trans hf) hans hres

/-! ### A bracket that is answered late -/

/-- The state after a bracket that was open in `s`, with its block before `cs` and `phase` go back. -/
def resumedBracket (s : State) (out : List Octet) (ans : Answer) (b : Block) : State :=
  { afterPoll s out with
    block := { b with cs := .deasserted, phase := .idle }
    trace := s.trace ++ [.exchange out ans, .selDeassert] }

theorem resumeBracket_of_answer {i : Instr} {s : State} {out : List Octet} {reply : Reply} {ans : Answer}
    (hout : encode i = out) (htx : s.block.txOctets (respKind i) = encode i)
    (hf : farReply s out = reply) (hans : answerOf out.length reply = some ans) :
    resumeBracket (respKind i) s = resumedBracket s out ans (s.block.afterReply (respKind i) reply) := by
  subst hout
  rw [← htx] at hf
  obtain ⟨rfl, rfl⟩ | ⟨r0, r1, rfl, rfl⟩ := answerOf_eq_some hans
  · simp [resumeBracket, poll_fail hf, htx, resumedBracket, selDeassert, State.record, State.withBlock,
      Block.afterReply]
  · simp [resumeBracket, poll_ok hf, htx, resumedBracket, selDeassert, State.record, State.withBlock,
      Block.afterReply, received_eq_take]

theorem finish_resumedBracket (s : State) (out : List Octet) (ans : Answer) (b : Block) (res : Result) :
    finish res (resumedBracket s out ans b) = resumed s out ans res := by
  simp [finish, resumedBracket, resumed, State.record, State.withBlock]

section resume
variable {s : State} {r : Request} {out : List Octet} {reply : Reply} {ans : Answer} (inv : s.Inv)
  (hp : s.block.phase = .selected) (hr : s.block.req = some r)
  (hout : encode (commandOf r s.block.held) = out) (hf : farReply s out = reply)
  (hans : answerOf out.length reply = some ans)
include inv hp hr hout hf hans

theorem step_resume_of_result {res : Result} (hres : replyResult r s.block.held reply = some res) :
    step s = .next (resumed s out ans res) := by
  have bracket := resumeBracket_of_answer hout (inv.txOctets hp hr) hf hans
  have finished := deliver_of_replyResult (s := resumedBracket s out ans
    (s.block.afterReply (respKind (commandOf r s.block.held)) reply)) (b := s.block) rfl hr hans hres
  rw [step_of_selected hp hr, bracket, finished, finish_resumedBracket]

theorem step_resume_of_value {a : RegAddr} {f : Transform} {v : Word16} (hm : r = .modifyRegister a f)
    (hh : s.block.held = none) (hv : wrapRead reply = some v) :
    ∃ b : Block, b.Between r v ∧ step s = .next { afterPoll s out with
      block := b
      trace := s.trace ++ [.exchange out ans, .selDeassert] } := by
  have bracket := resumeBracket_of_answer hout (inv.txOctets hp hr) hf hans
  have kept := deliver_of_replyValue (s := resumedBracket s out ans
    (s.block.afterReply (respKind (commandOf r s.block.held)) reply)) (b := s.block) rfl hr hans hm hh hv
  rw [step_of_selected hp hr, bracket, kept]
  refine ⟨_, ?_, rfl⟩
  exact ⟨rfl, rfl, (Block.afterReply_req ..).trans hr, rfl⟩

end resume

/-! ### The octets of a request's command -/

/-- The WRITE of an API value sends its nine low bits (R59). -/
theorem encode_write_data9 (a : RegAddr) (v : Word16) :
    encode (.write a (data9 v)) =
      [a.code ++ (0b000 : BitVec 3) ++ BitVec.ofBool (v.getLsbD 8), v.extractLsb' 0 8] := by
  have bit8 := data9_getLsbD v (show 8 < 9 by decide)
  rw [encode_write, bit8, data9_low_octet]

theorem encode_incr_potWiper (p : Pot) :
    encode (.incr (potWiper p)) = [if p = .pot0 then 0x04 else 0x14] := by
  cases p <;> rfl

theorem encode_decr_potWiper (p : Pot) :
    encode (.decr (potWiper p)) = [if p = .pot0 then 0x08 else 0x18] := by
  cases p <;> rfl

theorem quiet_of_env_nil {s : State} (h : s.env = []) : s.quiet := by rw [State.quiet, h]; rfl

/-- An operation that is over with its first bracket, where the environment has no move left. -/
theorem step_accept_of_env_nil {s : State} {r : Request} {rest : List Request} {out : List Octet}
    {reply : Reply} {ans : Answer} {res : Result} (hp : s.block.phase = .idle)
    (henv : s.env = []) (hq : s.requests = r :: rest) (hout : encode (commandOf r none) = out)
    (hf : farReply s out = reply) (hans : answerOf out.length reply = some ans)
    (hres : replyResult r none reply = some res) :
    step s = .next (completed { s with requests := rest } out ans res) := by
  rw [step_accept_of_result hp (quiet_of_env_nil henv) hq hout hf hans hres, takeTurn_of_env_nil s henv]

/-- The write bracket of `modify_register`, where the environment has no move left. -/
theorem step_writeBack_of_env_nil {s : State} {a : RegAddr} {f : Transform} {v : Word16}
    {out : List Octet} {reply : Reply} {ans : Answer} (hp : s.block.phase = .between)
    (hr : s.block.req = some (.modifyRegister a f)) (hh : s.block.held = some v) (henv : s.env = [])
    (hout : encode (.write a (data9 (applyTransform f v))) = out) (hf : farReply s out = reply)
    (hans : answerOf out.length reply = some ans) :
    step s = .next (completed s out ans (.bit (wrapAckLong reply))) := by
  have octets : encode (commandOf (.modifyRegister a f) s.block.held) = out := by rw [hh]; exact hout
  have result : replyResult (.modifyRegister a f) s.block.held reply = some (.bit (wrapAckLong reply)) := by
    rw [hh]; rfl
  rw [step_writeBack_of_result hp (quiet_of_env_nil henv) hr octets hf hans result,
    takeTurn_of_env_nil s henv]

end Sys2Proof.Machine

open Sys2Proof Sys2Proof.Machine

/-- Settles O25: whose turn it is (`step_of_accept`, `step_of_writeBack`). -/
theorem stepRunsNextCommand : Obligations.StepRunsNextCommand :=
  ⟨fun s _ _ hp quiet hq =>
      ⟨step_of_accept hp quiet hq, rfl, by rw [acceptRequest_requests, hq]; rfl⟩,
    fun s _ hp quiet hr => ⟨step_of_writeBack hp quiet hr, takeTurn_block s⟩⟩

/-- Settles O26: the request presented is the one whose command the word decodes to
(`commandOf_requestOf`). -/
theorem stepRunsFetchedWord : Obligations.StepRunsFetchedWord := by
  intro s nbits w i decoded
  have presented : s.withFetchWord nbits w = presentCommand i s := by rw [State.withFetchWord, decoded]
  have command := commandOf_requestOf i
  rw [presented, step_of_accept (r := requestOf i) (rest := s.requests) rfl rfl rfl, command]

/-- Settles O27: one bracket with the octets of a READ, and the value of its reply. -/
theorem readRegisterOperation : Obligations.ReadRegisterOperation :=
  fun _ a _ _ _ hp henv hq hf hans => step_accept_of_env_nil hp henv hq (encode_read a) hf hans rfl

/-- Settles O28: one bracket with the octets of a WRITE, and its acknowledgement. -/
theorem writeRegisterOperation : Obligations.WriteRegisterOperation :=
  fun _ a v _ _ _ hp henv hq hf hans =>
    step_accept_of_env_nil hp henv hq (encode_write_data9 a v) hf hans rfl

/-- Settles O29: one bracket with the octet of an INCR, and its acknowledgement. -/
theorem wiperIncrementOperation : Obligations.WiperIncrementOperation := by
  intro s p rest r ans hp henv hq hf hans
  rw [wrapAckShort_eq]
  exact step_accept_of_env_nil hp henv hq (encode_incr_potWiper p) hf hans rfl

/-- Settles O30: one bracket with the octet of a DECR, and its acknowledgement. -/
theorem wiperDecrementOperation : Obligations.WiperDecrementOperation := by
  intro s p rest r ans hp henv hq hf hans
  rw [wrapAckShort_eq]
  exact step_accept_of_env_nil hp henv hq (encode_decr_potWiper p) hf hans rfl

/-- Settles O31: the bracket of a READ, then the end of the operation or the value held. -/
theorem modifyReadBracket : Obligations.ModifyReadBracket := by
  intro s a f rest r ans hp henv hq hf hans
  refine ⟨fun nothing => ?_, fun v value => ?_⟩
  · refine step_accept_of_env_nil hp henv hq (encode_read a) hf hans ?_
    rw [replyResult, nothing]
    rfl
  · obtain ⟨b, between, next⟩ :=
      step_accept_of_value hp (quiet_of_env_nil henv) hq (encode_read a) hf hans rfl value
    exact ⟨_, next, between.phase, between.cs, between.held, between.req, rfl,
      (congrArg State.env (takeTurn_of_env_nil s henv)).trans henv, rfl⟩

/-- Settles O32: one bracket with the octets of the WRITE of `f(held)`, and its acknowledgement. -/
theorem modifyWriteBracket : Obligations.ModifyWriteBracket :=
  fun _ a f v _ _ hp henv hr hh hf hans =>
    step_writeBack_of_env_nil hp hr hh henv (encode_write_data9 a (applyTransform f v)) hf hans
end

section
/-! PROOF. What the host sees of the far end (R67, R116, R137): the reserved bits of a response count for
nothing, a nack and a failure are alike; then the whole of `modify_register` (R136), and the brackets that
were left open (R205) or unclosed (R13). -/

namespace Sys2Proof.Machine

/-! ### Steps in a row -/

theorem run_succ {s s' : State} (h : step s = .next s') (n : Nat) :
    Host.Core.run core (n + 1) s = Host.Core.run core n s' := by
  have first : core.step s = .next s' := h
  simp only [Host.Core.run, first]

theorem run_two {s s' t : State} (h : step s = .next s') (h' : step s' = .next t) :
    Host.Core.run core 2 s = .next t := by
  rw [run_succ h, run_succ h']
  rfl

/-! ### What a result depends on -/

/-- The value an operation returns where its exchange failed or was nacked (R137). -/
def failureResult : Request → Result
  | .readRegister _     => .value none
  | .writeRegister _ _  => .bit false
  | .modifyRegister _ _ => .bit false
  | .wiperIncrement _   => .bit false
  | .wiperDecrement _   => .bit false

theorem failureResult_cases (r : Request) :
    failureResult r = .value none ∨ failureResult r = .bit false := by
  cases r with
  | readRegister a => exact .inl rfl
  | _ => exact .inr rfl

theorem wrapRead_of_nack {reply : Reply} (nack : wrapAckLong reply = false) : wrapRead reply = none := by
  cases reply with
  | ok r0 r1 => rw [wrapAckLong] at nack; rw [wrapRead, nack]; rfl
  | fail => rfl
  | silent => rfl

/-- The first bracket of an operation, failed or nacked, ends it with its failure value. -/
theorem replyResult_of_nack (r : Request) {reply : Reply} (nack : wrapAckLong reply = false) :
    replyResult r none reply = some (failureResult r) := by
  rw [replyResult, wrapRead_of_nack nack, nack]
  cases r <;> rfl

theorem opResult_eq_none {r : Request} {held : Option Word16} {ack : Bit} {value : Option Word16}
    (h : opResult r held ack value = none) : ∃ a f v, r = .modifyRegister a f ∧ value = some v := by
  cases r with
  | modifyRegister a f =>
    cases held with
    | some w => cases h
    | none =>
      cases value with
      | none => cases h
      | some v => exact ⟨a, f, v, rfl, rfl⟩
  | readRegister a => cases h
  | writeRegister a v => cases h
  | wiperIncrement p => cases h
  | wiperDecrement p => cases h

theorem looksAtData_of_readData {r : Request} (h : respKind (commandOf r none) = .readData) :
    looksAtData r = true := by
  cases r with
  | readRegister a => rfl
  | modifyRegister a f => rfl
  | writeRegister a v => cases h
  | wiperIncrement p => cases h
  | wiperDecrement p => cases h

/-- `wrap_read` looks at the acknowledgement and, where it is 1, at the nine data bits (R67). -/
theorem wrapRead_congr {r0 r1 q0 q1 : Octet} (ack : r0.getLsbD 1 = q0.getLsbD 1)
    (data : r0.getLsbD 1 = true → r0.getLsbD 0 = q0.getLsbD 0 ∧ r1 = q1) :
    wrapRead (.ok r0 r1) = wrapRead (.ok q0 q1) := by
  simp only [wrapRead, ackLong_eq, longData_eq, ← ack]
  split
  case isTrue acked =>
    obtain ⟨bit0, rfl⟩ := data acked
    rw [bit0]
  case isFalse => rfl

/-! ### Given replies -/

/-- The events of an operation that is over with its first bracket. -/
theorem completed_takeTurn_trace (s : State) (rest : List Request) (out : List Octet) (ans : Answer)
    (res : Result) : (completed { takeTurn s with requests := rest } out ans res).trace =
      s.trace ++ [.selAssert, .exchange out ans, .selDeassert, .result res] := by
  simp [completed]

section script
variable {s : State} {r : Request} {rest : List Request} {reply : Reply} {ans : Answer}
  (replies : List Reply) (fail : s.failNext = false)

theorem farReply_script (out : List Octet) (h : s.far = .script (reply :: replies))
    (fail : s.failNext = false) : farReply s out = reply := by
  simp [farReply, fail, h]

variable (hp : s.block.phase = .idle) (quiet : s.quiet) (hq : s.requests = r :: rest)
  (hans : answerOf (encode (commandOf r none)).length reply = some ans)
include fail hp quiet hq hans

theorem step_script_of_result {res : Result} (hres : replyResult r none reply = some res) :
    step { s with far := .script (reply :: replies) } =
      .next (completed { takeTurn { s with far := .script (reply :: replies) } with requests := rest }
        (encode (commandOf r none)) ans res) :=
  step_accept_of_result (s := { s with far := .script (reply :: replies) }) hp quiet hq rfl
    (farReply_script replies _ rfl fail) hans hres

theorem step_script_of_value {a : RegAddr} {f : Transform} {v : Word16} (hm : r = .modifyRegister a f)
    (hv : wrapRead reply = some v) :
    ∃ t, t.block.Between r v ∧ step { s with far := .script (reply :: replies) } = .next t := by
  obtain ⟨b, between, next⟩ := step_accept_of_value (s := { s with far := .script (reply :: replies) }) hp
    quiet hq rfl (farReply_script replies _ rfl fail) hans hm hv
  exact ⟨_, between, next⟩

end script

/-! ### The two brackets of `modify_register` -/

/-- The whole of a `modify_register` whose read gives a value and whose write is answered: the far end is
polled twice, once in each bracket. -/
theorem run_modifyRegister {s : State} {a : RegAddr} {f : Transform} {rest : List Request}
    {out out' : List Octet} {reply reply' : Reply} {ans ans' : Answer} {v : Word16}
    (hp : s.block.phase = .idle) (henv : s.env = []) (hq : s.requests = .modifyRegister a f :: rest)
    (hout : encode (.read a) = out) (hf : farReply s out = reply)
    (hans : answerOf out.length reply = some ans) (hv : wrapRead reply = some v)
    (hout' : encode (.write a (data9 (applyTransform f v))) = out')
    (hf' : farReply (afterPoll s out) out' = reply')
    (hans' : answerOf out'.length reply' = some ans') :
    Host.Core.run core 2 s = .next { afterPoll (afterPoll s out) out' with
      block := Block.reset
      requests := rest
      trace := s.trace ++ [.selAssert, .exchange out ans, .selDeassert,
        .selAssert, .exchange out' ans', .selDeassert, .result (.bit (wrapAckLong reply'))] } := by
  obtain ⟨b, between, first⟩ := step_accept_of_value hp (quiet_of_env_nil henv) hq hout hf hans rfl hv
  rw [takeTurn_of_env_nil s henv] at first
  rw [run_two first (step_writeBack_of_env_nil between.phase between.req between.held henv hout'
    ((farReply_congr out' rfl rfl rfl rfl).trans hf') hans')]
  simp only [completed, List.append_assoc, List.cons_append, List.nil_append]
  rfl

/-! ### Brackets left unclosed -/

theorem finish_selDeassert (s : State) (res : Result) : finish res (selDeassert s) = closed s res := by
  simp [finish, selDeassert, closed, State.record, State.withBlock]

/-- The whole step that closes an answered bracket and ends its operation. -/
theorem step_answered_of_result {s : State} {r : Request} {k : Bit} {res : Result}
    (hp : s.block.phase = .answered) (hr : s.block.req = some r) (ha : s.block.ack = some k)
    (h : opResult r s.block.held k (readResult k s.block.data) = some res) :
    step s = .next (closed s res) := by
  have finished := deliver_of_result (s := selDeassert s) rfl hr ha h
  rw [step_of_answered hp hr, finished, finish_selDeassert]

end Sys2Proof.Machine

open Sys2Proof Sys2Proof.Machine

/-- Settles O33: `run_modifyRegister` on a far end of given replies. -/
theorem modifyRegisterOperation : Obligations.ModifyRegisterOperation := by
  intro s a f rest r0 r1 r2 replies ans2 v hp henv hfail hq hfar hv hans2
  have first := farReply_script _ [RegAddr.code a ++ (0b1100 : BitVec 4), 0xFF] hfar hfail
  have second := farReply_script (s := afterPoll s [RegAddr.code a ++ (0b1100 : BitVec 4), 0xFF]) replies
    [RegAddr.code a ++ (0b000 : BitVec 3) ++ BitVec.ofBool ((applyTransform f v).getLsbD 8),
      (applyTransform f v).extractLsb' 0 8] (by rw [afterPoll_far, hfar]; rfl) rfl
  refine ⟨_, run_modifyRegister hp henv hq (encode_read a) first rfl hv (encode_write_data9 a _)
    second hans2, rfl, rfl, ?_, rfl⟩
  simp [hfar, FarEnd.afterPoll]

/-- Settles O34: the latches' part of a reply is its acknowledgement and what `wrap_read` makes of it, and
`wrapRead_congr` says what that depends on. -/
theorem reservedResponseBitsIgnored : Obligations.ReservedResponseBitsIgnored := by
  intro s t t' r rest r0 r1 q0 q1 hp quiet hfail hq ack data step1 step2
  have alike : replyResult r none (.ok r0 r1) = replyResult r none (.ok q0 q1) := by
    have acks : wrapAckLong (.ok r0 r1) = wrapAckLong (.ok q0 q1) := by simpa [wrapAckLong] using ack
    rw [replyResult, replyResult, acks]
    exact opResult_congr_value _ fun kind => wrapRead_congr ack (data (looksAtData_of_readData kind))
  cases result : replyResult r none (.ok r0 r1) with
  | some res =>
    cases step1.symm.trans (step_script_of_result [] hfail hp quiet hq rfl result)
    cases step2.symm.trans (step_script_of_result [] hfail hp quiet hq rfl (alike ▸ result))
    exact ⟨rfl, rfl, fun _ => ⟨res, by simp [completed], by simp [completed]⟩⟩
  | none =>
    obtain ⟨a, f, v, rfl, value⟩ := opResult_eq_none result
    have value' := (wrapRead_congr ack (data rfl)).symm.trans value
    obtain ⟨u, between, next⟩ := step_script_of_value [] hfail hp quiet hq rfl rfl value
    obtain ⟨u', between', next'⟩ := step_script_of_value [] hfail hp quiet hq rfl rfl value'
    cases step1.symm.trans next
    cases step2.symm.trans next'
    refine ⟨between.phase.trans between'.phase.symm, between.held.trans between'.held.symm,
      fun idle => ?_⟩
    exact absurd (between.phase.symm.trans idle) nofun

/-- Settles O35: both replies leave the acknowledgement 0, and that alone decides the result
(`replyResult_of_nack`). -/
theorem nackAndTransportFailureAlike : Obligations.NackAndTransportFailureAlike := by
  intro s t t' r rest r0 r1 hp quiet hfail hq nack step1 step2
  have nacked : wrapAckLong (.ok r0 r1) = false := by simpa [wrapAckLong] using nack
  cases step1.symm.trans (step_script_of_result [] hfail hp quiet hq rfl (replyResult_of_nack r nacked))
  cases step2.symm.trans (step_script_of_result [] hfail hp quiet hq rfl (replyResult_of_nack r rfl))
  exact ⟨_, _, failureResult r, rfl, rfl, takeTurn_env_congr rfl,
    completed_takeTurn_trace .., completed_takeTurn_trace .., failureResult_cases r⟩

/-- Settles O52: `step_resume_of_result` with the octets of a READ and of a WRITE. -/
theorem resumedLongOperations : Obligations.ResumedLongOperations :=
  fun _ a _ _ inv hp hans =>
    ⟨fun hr hf => step_resume_of_result inv hp hr (encode_read a) hf hans rfl,
      fun v hr hf => step_resume_of_result inv hp hr (encode_write_data9 a v) hf hans rfl⟩

/-- Settles O53: `step_resume_of_result` with the octet of an INCR and of a DECR. -/
theorem resumedShortOperations : Obligations.ResumedShortOperations := by
  intro s p r ans inv hp hans
  rw [wrapAckShort_eq]
  exact ⟨fun hr hf => step_resume_of_result inv hp hr (encode_incr_potWiper p) hf hans rfl,
    fun hr hf => step_resume_of_result inv hp hr (encode_decr_potWiper p) hf hans rfl⟩

/-- Settles O54: the read bracket ends the operation or is held, the write bracket ends it. -/
theorem resumedModifyRegister : Obligations.ResumedModifyRegister := by
  intro s a f r ans inv hp hr hans
  refine ⟨fun hh hf => ?_, fun v hh => ?_⟩
  · have octets : encode (commandOf (.modifyRegister a f) s.block.held) =
        [RegAddr.code a ++ (0b1100 : BitVec 4), 0xFF] := by rw [hh]; exact encode_read a
    refine ⟨fun nothing => ?_, fun v value => ?_⟩
    · refine step_resume_of_result inv hp hr octets hf hans ?_
      rw [hh, replyResult, nothing]
      rfl
    · obtain ⟨b, between, next⟩ := step_resume_of_value inv hp hr octets hf hans rfl hh value
      exact ⟨_, next, between.phase, between.cs, between.held, between.req, rfl, rfl, rfl⟩
  · intro u out hf
    have octets : encode (commandOf (.modifyRegister a f) s.block.held) = out := by
      rw [hh]; exact encode_write_data9 a u
    exact step_resume_of_result inv hp hr octets hf hans (by rw [hh]; rfl)

/-- Settles O55: closing the bracket leaves the latches, and the result is `opResult` of them. -/
theorem answeredBracketCloses : Obligations.AnsweredBracketCloses := by
  intro s k hp ha
  refine ⟨fun a hr => step_answered_of_result hp hr ha rfl, fun r hr looks => ?_,
    fun a f hr => ⟨fun held => ?_, fun hh nack => ?_, fun d hh acked hd => ?_⟩⟩
  · refine step_answered_of_result hp hr ha ?_
    cases r with
    | readRegister a => cases looks
    | modifyRegister a f => cases looks
    | writeRegister a v => rfl
    | wiperIncrement p => rfl
    | wiperDecrement p => rfl
  · obtain ⟨v, hh⟩ := Option.isSome_iff_exists.mp held
    exact step_answered_of_result hp hr ha (by rw [hh]; rfl)
  · subst nack
    exact step_answered_of_result hp hr ha (by rw [hh]; rfl)
  · subst acked
    have kept := deliver_of_value (s := selDeassert s) rfl hr ha rfl hh (v := zext16 d)
      (by simp [readResult, hd])
    rw [step_of_answered hp hr, kept]
    rfl
end

section
/-! PROOF. The reference peer (R157 to R163, D22, log 8): what it answers, and what the operations of the
API do to its registers. -/

namespace Sys2Proof.Machine

/-! ### What it answers -/

section answers
variable (p : Peer)

theorem Peer.respond_of_not_accept (h : p.accept = false) (out : List Octet) :
    p.respond out = (p, peerNack) := by
  have onRead (a : RegAddr) : p.onRead a = (p, peerNack) := by simp [Peer.onRead, h]
  have onWrite (a : RegAddr) (d : Data9) : p.onWrite a d = (p, peerNack) := by simp [Peer.onWrite, h]
  have onIncr (w : WiperSel) : p.onIncr w = (p, peerNack) := by simp [Peer.onIncr, h]
  have onDecr (w : WiperSel) : p.onDecr w = (p, peerNack) := by simp [Peer.onDecr, h]
  unfold Peer.respond
  split
  · unfold Peer.onShort
    split
    · rfl
    · split <;> simp only [onIncr, onDecr]
  · unfold Peer.onLong
    split
    · rfl
    · split <;> simp only [onRead, onWrite]
  · rfl

theorem Peer.respond_unknownAddress {b0 : Octet} (more : List Octet)
    (h : addrField b0 ∉ [0x0#4, 0x1#4, 0x4#4, 0x5#4]) : p.respond (b0 :: more) = (p, peerNack) := by
  have unknown := RegAddr.ofCode_eq_none h
  rcases more with _ | ⟨b1, _ | ⟨b2, more⟩⟩
  · simp [respond, onShort, unknown]
  · simp [respond, onLong, unknown]
  · rfl

theorem Peer.respond_nonWiper {b0 : Octet} (h : addrField b0 ∈ [0x4#4, 0x5#4]) :
    p.respond [b0] = (p, peerNack) := by
  obtain ⟨a, named, nonWiper, -⟩ := RegAddr.ofCode_of_nonWiper h
  simp [respond, onShort, named, nonWiper]

end answers

section accepting
variable {p : Peer} (accept : p.accept = true)
include accept

theorem Peer.respond_read (a : RegAddr) : p.respond (encode (.read a)) =
    (p, .ok (0xFE#8 ||| zext8 (BitVec.ofBool ((PeerRegs.read p.regs a).getLsbD 8)))
      ((PeerRegs.read p.regs a).extractLsb' 0 8)) := by
  rw [respond_encode_read, onRead, if_pos accept]

theorem Peer.respond_write (a : RegAddr) (d : Data9) :
    p.respond (encode (.write a d)) = ({ p with regs := PeerRegs.write p.regs a d }, peerAck) := by
  rw [respond_encode_write, onWrite, if_pos accept]

theorem Peer.respond_incr (w : WiperSel) : p.respond (encode (.incr w)) =
    ({ p with
        regs := PeerRegs.write p.regs w.toReg (stepUp p.wiperMax (PeerRegs.read p.regs w.toReg)) },
      peerAck) := by
  rw [respond_encode_incr, onIncr, if_pos accept]

theorem Peer.respond_decr (w : WiperSel) : p.respond (encode (.decr w)) =
    ({ p with regs := PeerRegs.write p.regs w.toReg (stepDown (PeerRegs.read p.regs w.toReg)) },
      peerAck) := by
  rw [respond_encode_decr, onDecr, if_pos accept]

end accepting

/-- The first octet of a READ's answer: seven ones, the acknowledgement among them, and bit 8 (R158). -/
theorem readOctet_eq (b : Bit) :
    0xFE#8 ||| zext8 (BitVec.ofBool b) = (0b1111111 : BitVec 7) ++ BitVec.ofBool b := by
  cases b <;> rfl

/-- What the reference peer answers to a READ is read as the register's nine bits. -/
theorem wrapRead_readAnswer (d : Data9) :
    wrapRead (.ok ((0b1111111 : BitVec 7) ++ BitVec.ofBool (d.getLsbD 8)) (d.extractLsb' 0 8)) =
      some (zext16 d) := by
  have bits (b : Bit) : ((0b1111111 : BitVec 7) ++ BitVec.ofBool b).getLsbD 1 = true ∧
      ((0b1111111 : BitVec 7) ++ BitVec.ofBool b).getLsbD 0 = b := by cases b <;> decide
  obtain ⟨ack, bit0⟩ := bits (d.getLsbD 8)
  have payload : BitVec.ofBool (d.getLsbD 8) ++ d.extractLsb' 0 8 = d := join9_split9 d
  rw [wrapRead, ackLong_eq, ack, longData_eq, bit0, payload]
  rfl

/-- One step up stays at the clamp (R160). -/
theorem stepUp_toNat {max v : Data9} (h : v ≤ max) :
    (stepUp max v).toNat = min (v.toNat + 1) max.toNat := by
  have le : v.toNat ≤ max.toNat := h
  rw [stepUp]
  split
  case isTrue below =>
    have lt : v.toNat < max.toNat := below
    have fits : v.toNat + 1 < 2 ^ 9 := by omega
    rw [BitVec.toNat_add, BitVec.toNat_one (by decide), Nat.mod_eq_of_lt fits]
    omega
  case isFalse above =>
    have ge : ¬ v.toNat < max.toNat := above
    omega

/-! ### Operations on it -/

theorem farReply_reference {s : State} (far : s.far = .reference) (fail : s.failNext = false)
    (out : List Octet) : farReply s out = (s.peer.respond out).2 := by
  simp [farReply, far, fail]

theorem peerAfter_reference {s : State} (far : s.far = .reference) (fail : s.failNext = false)
    (out : List Octet) : peerAfter s out = (s.peer.respond out).1 := by
  simp [peerAfter, far, fail]

theorem afterPoll_reference {s : State} (far : s.far = .reference) (fail : s.failNext = false)
    (out : List Octet) :
    afterPoll s out = { s with peer := (s.peer.respond out).1, polls := s.polls + 1 } := by
  rw [afterPoll, peerAfter_reference far fail, far, fail]
  rfl

/-- The block is idle, no one else has a move to make, and the accepting reference peer is the far end. -/
structure OnReference (s : State) : Prop where
  idle : s.block.phase = .idle
  env : s.env = []
  fail : s.failNext = false
  far : s.far = .reference
  accept : s.peer.accept = true

/-- The state after an operation of one bracket on the reference peer, which it left as `p`. -/
def served (s : State) (rest : List Request) (p : Peer) (out : List Octet) (ans : Answer) (res : Result) :
    State :=
  { s with
    block := Block.reset
    requests := rest
    peer := p
    polls := s.polls + 1
    trace := s.trace ++ [.selAssert, .exchange out ans, .selDeassert, .result res] }

/-- An operation of one bracket, and the next may follow. -/
theorem OnReference.step_of_respond {s : State} (h : OnReference s) {r : Request} {rest : List Request}
    {out : List Octet} {p : Peer} {reply : Reply} {ans : Answer} {res : Result}
    (hq : s.requests = r :: rest) (hout : encode (commandOf r none) = out)
    (hf : s.peer.respond (encode (commandOf r none)) = (p, reply)) (accept : p.accept = true)
    (hans : answerOf out.length reply = some ans) (hres : replyResult r none reply = some res) :
    step s = .next (served s rest p out ans res) ∧ OnReference (served s rest p out ans res) := by
  rw [hout] at hf
  have replied : farReply s out = reply := by rw [farReply_reference h.far h.fail, hf]
  refine ⟨?_, rfl, h.env, h.fail, h.far, accept⟩
  rw [step_accept_of_env_nil h.idle h.env hq hout replied hans hres, completed,
    afterPoll_reference (s := { s with requests := rest }) h.far h.fail, hf]
  rfl

theorem OnReference.step_increment {s : State} (h : OnReference s) {p : Pot} {rest : List Request}
    (hq : s.requests = .wiperIncrement p :: rest) :
    ∃ t, step s = .next t ∧ OnReference t ∧ t.requests = rest ∧
      t.peer.wiperMax = s.peer.wiperMax ∧
      t.peer.regs = PeerRegs.write s.peer.regs (potWiper p).toReg
        (stepUp s.peer.wiperMax (PeerRegs.read s.peer.regs (potWiper p).toReg)) := by
  obtain ⟨next, onReference⟩ :=
    h.step_of_respond hq rfl (Peer.respond_incr h.accept (potWiper p)) h.accept rfl rfl
  exact ⟨_, next, onReference, rfl, rfl, rfl⟩

/-- Increments in a row: the wiper goes up to the clamp, nothing else moves. -/
theorem OnReference.run_increments (p : Pot) (rest : List Request) (n : Nat) :
    ∀ s : State, OnReference s → PeerRegs.read s.peer.regs (potWiper p).toReg ≤ s.peer.wiperMax →
      s.requests = List.replicate n (.wiperIncrement p) ++ rest →
      ∃ t, Host.Core.run core n s = .next t ∧ t.block.phase = .idle ∧ t.requests = rest ∧
        (PeerRegs.read t.peer.regs (potWiper p).toReg).toNat =
          min ((PeerRegs.read s.peer.regs (potWiper p).toReg).toNat + n) s.peer.wiperMax.toNat ∧
        ∀ a, a ≠ (potWiper p).toReg → PeerRegs.read t.peer.regs a = PeerRegs.read s.peer.regs a := by
  induction n with
  | zero =>
    intro s h below hq
    have le : (PeerRegs.read s.peer.regs (potWiper p).toReg).toNat ≤ s.peer.wiperMax.toNat := below
    exact ⟨s, rfl, h.idle, hq, by omega, fun _ _ => rfl⟩
  | succ n ih =>
    intro s h below hq
    rw [List.replicate_succ, List.cons_append] at hq
    obtain ⟨u, first, h', hq', max, regs⟩ := h.step_increment hq
    have up := stepUp_toNat below
    have below' : PeerRegs.read u.peer.regs (potWiper p).toReg ≤ u.peer.wiperMax := by
      rw [BitVec.le_def, regs, PeerRegs.read_write_same, up, max]
      exact Nat.min_le_right ..
    obtain ⟨t, run, idle, queue, wiper, others⟩ := ih u h' below' hq'
    refine ⟨t, (run_succ first n).trans run, idle, queue, ?_, fun a other => ?_⟩
    · rw [wiper, regs, PeerRegs.read_write_same, up, max]
      omega
    · rw [others a other, regs, PeerRegs.read_write_other _ _ other]

/-- A nacking peer, or an injected failure: the exchange fails or is nacked and reaches no register. -/
theorem reference_failed {s : State} (far : s.far = .reference)
    (h : s.peer.accept = false ∨ s.failNext = true) {out : List Octet} :
    ∃ reply ans, farReply s out = reply ∧ answerOf out.length reply = some ans ∧
      wrapAckLong reply = false ∧ peerAfter s out = s.peer ∧ (s.failNext = true → ans = .fail) := by
  cases fail : s.failNext with
  | true =>
    exact ⟨.fail, .fail, by simp [farReply, fail], rfl, rfl, by simp [peerAfter, far, fail], fun _ => rfl⟩
  | false =>
    have nacks : s.peer.accept = false := h.resolve_right (by simp [fail])
    have nack := s.peer.respond_of_not_accept nacks out
    refine ⟨peerNack, _, ?_, rfl, by decide, ?_, nofun⟩
    · rw [farReply_reference far fail, nack]
    · rw [peerAfter_reference far fail, nack]

end Sys2Proof.Machine

open Sys2Proof Sys2Proof.Machine

/-- Settles O37: the peer reads each command as that command, and anything else is nacked. -/
theorem referencePeerAnswers : Obligations.ReferencePeerAnswers :=
  ⟨fun _ a accept => Peer.respond_read accept a, fun _ a d accept => Peer.respond_write accept a d,
    fun _ w accept => ⟨Peer.respond_incr accept w, Peer.respond_decr accept w⟩,
    fun p out refuse => p.respond_of_not_accept refuse out,
    fun p _ more unknown => p.respond_unknownAddress more unknown,
    fun p _ code _ => p.respond_nonWiper code⟩

/-- Settles O38: the WRITE stores `data9 v`, and the READ answers it. -/
theorem echoLaw : Obligations.EchoLaw := by
  intro s a v rest idle env fail far accept hq
  have h : OnReference s := ⟨idle, env, fail, far, accept⟩
  have bit8 := data9_getLsbD v (show 8 < 9 by decide)
  have value := wrapRead_readAnswer (data9 v)
  have answer := Peer.respond_read (p := { s.peer with regs := PeerRegs.write s.peer.regs a (data9 v) })
    accept a
  rw [PeerRegs.read_write_same, readOctet_eq, bit8, data9_low_octet] at answer
  rw [bit8, data9_low_octet, zext16_data9] at value
  obtain ⟨first, h'⟩ :=
    h.step_of_respond hq (encode_write_data9 a v) (Peer.respond_write accept a (data9 v)) accept rfl rfl
  obtain ⟨second, -⟩ := h'.step_of_respond (r := .readRegister a) rfl (encode_read a) answer accept rfl
    (congrArg (fun x => some (Result.value x)) value)
  have ack : wrapAckLong peerAck = true := by decide
  exact ⟨_, run_two first second, rfl, rfl, rfl, by simp [served, ack, Config.dataMask]⟩

/-- Settles O39, by induction on the number of requests (`OnReference.run_increments`). -/
theorem incrementsReachTheClamp : Obligations.IncrementsReachTheClamp :=
  fun n s p rest idle env fail far accept below hq =>
    OnReference.run_increments p rest n s ⟨idle, env, fail, far, accept⟩ below hq

/-- Settles O40: the two brackets of `run_modifyRegister`, the first leaving the peer as it was. -/
theorem modifyOnTheReferencePeer : Obligations.ModifyOnTheReferencePeer := by
  intro s a f rest idle env fail far accept hq
  have answer := Peer.respond_read accept a
  rw [readOctet_eq] at answer
  have written := Peer.respond_write accept a
    (data9 (applyTransform f (zext16 (PeerRegs.read s.peer.regs a))))
  have reply1 := farReply_reference far fail (encode (.read a))
  have read := afterPoll_reference far fail (encode (.read a))
  rw [answer] at reply1 read
  have reply2 := farReply_reference (s := { s with polls := s.polls + 1 }) far fail
    (encode (.write a (data9 (applyTransform f (zext16 (PeerRegs.read s.peer.regs a))))))
  rw [written] at reply2
  have run := run_modifyRegister idle env hq rfl reply1 rfl (wrapRead_readAnswer _) rfl
    (read ▸ reply2) rfl
  rw [read, afterPoll_reference (s := { s with polls := s.polls + 1 }) far fail, written] at run
  exact ⟨_, run, rfl, rfl, by simp [wrapAckLong, peerAck], rfl⟩

/-- Settles O41: the failed or nacked reply ends the operation (`replyResult_of_nack`), and the peer is as it
was (`reference_failed`). -/
theorem failedOperationsChangeNoRegister : Obligations.FailedOperationsChangeNoRegister := by
  intro s r rest idle env far hq failed
  obtain ⟨reply, ans, replied, hans, nack, left, injected⟩ :=
    reference_failed far failed (out := encode (commandOf r none))
  exact ⟨_, _, ans, failureResult r,
    step_accept_of_env_nil idle env hq rfl replied hans (replyResult_of_nack r nack), left, rfl, rfl, rfl,
    injected, failureResult_cases r⟩

/-- Settles O42: the other actor's move leaves the block with what it holds, and the write-back goes by
that. -/
theorem interleavedWriteIsLost : Obligations.InterleavedWriteIsLost := by
  intro s a f v d hp hr hh henv far accept fail
  have due : envDue s.env = some (.otherWrite a d) := by rw [henv]; rfl
  have moved : (envMove (.otherWrite a d) s).peer =
      { s.peer with regs := PeerRegs.write s.peer.regs a d } := by
    simp [envMove, otherWriteRegs, far]
  have written := Peer.respond_write (p := { s.peer with regs := PeerRegs.write s.peer.regs a d }) accept a
    (data9 (applyTransform f v))
  have reply := farReply_reference (s := envMove (.otherWrite a d) s) far fail
    (encode (.write a (data9 (applyTransform f v))))
  have left := peerAfter_reference (s := envMove (.otherWrite a d) s) far fail
  rw [moved, written] at reply
  refine ⟨_, _, step_of_envDue (.inr hp) due, by rw [moved, PeerRegs.read_write_same], rfl,
    step_writeBack_of_env_nil hp hr hh (by simp [envMove, henv]) rfl reply rfl, ?_, rfl, ?_⟩
  · simp [completed, left, moved, written]
  · simp [completed, wrapAckLong, peerAck]
end

section
/-! PROOF. Every step (R13, R110, R170, R205): whose turn it is, the transitions a step is made of, what
each leaves unchanged, and the invariant, which every transition keeps and so every step. -/

namespace Sys2Proof.Machine

/-! ### Whose turn it is -/

/-- The turns of R13, each with the states in which it is taken. -/
inductive Turn (s : State) : Action → Prop
  | environment {m : EnvMove} (ready : s.ready) (due : envDue s.env = some m) : Turn s (.environment m)
  | waiting (hp : s.block.phase = .idle) (quiet : s.quiet) (hq : s.requests = []) : Turn s .waiting
  | accept {r : Request} {rest : List Request} (hp : s.block.phase = .idle) (quiet : s.quiet)
      (hq : s.requests = r :: rest) : Turn s (.accept r (commandOf r none))
  | writeBack {r : Request} (hp : s.block.phase = .between) (quiet : s.quiet)
      (hr : s.block.req = some r) : Turn s (.writeBack (commandOf r s.block.held))
  | resume {r : Request} (hp : s.block.phase = .selected) (hr : s.block.req = some r) :
      Turn s (.resume (commandOf r s.block.held))
  | close {r : Request} (hp : s.block.phase = .answered) (hr : s.block.req = some r) : Turn s .close
  | stuck (hp : s.block.phase ≠ .idle) (hr : s.block.req = none) : Turn s .stuck

theorem nextAction_turn (s : State) : ∃ act, nextAction s = act ∧ Turn s act := by
  refine ⟨_, rfl, ?_⟩
  unfold nextAction
  split
  case h_1 hp =>
    split
    case h_1 m due => exact .environment (.inl hp) due
    case h_2 quiet =>
      split
      case h_1 hq => exact .waiting hp quiet hq
      case h_2 r rest hq => exact .accept hp quiet hq
  case h_2 hp =>
    split
    case h_1 m due => exact .environment (.inr hp) due
    case h_2 quiet =>
      split
      case h_1 hr => exact .stuck (by simp [hp]) hr
      case h_2 r hr => exact .writeBack hp quiet hr
  case h_3 hp =>
    split
    case h_1 hr => exact .stuck (by simp [hp]) hr
    case h_2 r hr => exact .resume hp hr
  case h_4 hp =>
    split
    case h_1 hr => exact .stuck (by simp [hp]) hr
    case h_2 r hr => exact .close hp hr

/-- What a step does, by whose turn it is; a command is the bracket it runs. -/
inductive StepTo (s : State) : State → Prop
  | environment {m : EnvMove} (ready : s.ready) (due : envDue s.env = some m) : StepTo s (envMove m s)
  | waiting (hp : s.block.phase = .idle) (quiet : s.quiet) (hq : s.requests = []) : StepTo s (takeTurn s)
  | accept {r : Request} {rest : List Request} (hp : s.block.phase = .idle) (quiet : s.quiet)
      (hq : s.requests = r :: rest) : StepTo s (deliver (transact (encode (commandOf r none))
        (respKind (commandOf r none)) (acceptRequest r s)))
  | writeBack {r : Request} (hp : s.block.phase = .between) (quiet : s.quiet)
      (hr : s.block.req = some r) : StepTo s (deliver (transact (encode (commandOf r s.block.held))
        (respKind (commandOf r s.block.held)) (takeTurn s)))
  | resume {r : Request} (hp : s.block.phase = .selected) (hr : s.block.req = some r) :
      StepTo s (deliver (resumeBracket (respKind (commandOf r s.block.held)) s))
  | close {r : Request} (hp : s.block.phase = .answered) (hr : s.block.req = some r) :
      StepTo s (deliver (selDeassert s))

theorem stepTo_of_step {s t : State} (h : step s = .next t) : StepTo s t := by
  obtain ⟨act, hact, turn⟩ := nextAction_turn s
  rw [step, hact] at h
  cases turn with
  | environment ready due => cases h; exact .environment ready due
  | waiting hp quiet hq => cases h; exact .waiting hp quiet hq
  | accept hp quiet hq =>
    simp only [exec_of_ready (s := acceptRequest _ s) (.inl rfl)] at h
    cases h
    exact .accept hp quiet hq
  | writeBack hp quiet hr =>
    have ready : (takeTurn s).ready := .inr ((congrArg Block.phase (takeTurn_block s)).trans hp)
    simp only [exec_of_ready ready] at h
    cases h
    exact .writeBack hp quiet hr
  | resume hp hr => cases h; exact .resume hp hr
  | close hp hr => cases h; exact .close hp hr
  | stuck hp hr => cases h

/-- A step answers a next state but where an operation is in flight and `req` holds no value (R12). -/
theorem step_answers_next {s : State} (h : s.block.phase = .idle ∨ s.block.req.isSome) :
    ∃ t, step s = .next t := by
  obtain ⟨act, hact, turn⟩ := nextAction_turn s
  rw [step, hact]
  cases turn with
  | environment => exact ⟨_, rfl⟩
  | waiting => exact ⟨_, rfl⟩
  | accept =>
    simp only [exec_of_ready (s := acceptRequest _ s) (.inl rfl)]
    exact ⟨_, rfl⟩
  | writeBack hp =>
    have ready : (takeTurn s).ready := .inr ((congrArg Block.phase (takeTurn_block s)).trans hp)
    simp only [exec_of_ready ready]
    exact ⟨_, rfl⟩
  | resume => exact ⟨_, rfl⟩
  | close => exact ⟨_, rfl⟩
  | stuck hp hr => simp [hp, hr] at h

/-! ### The phase transitions that a step is made of -/

theorem microSteps_succ {s s' : State} (h : microStep s = .next s') (n : Nat) :
    microSteps (n + 1) s = microSteps n s' := by
  simp only [microSteps, h]

section micro
variable {s : State} {r : Request}

theorem microStep_of_selected (hp : s.block.phase = .selected) (hr : s.block.req = some r) :
    microStep s = .next (poll (respKind (commandOf r s.block.held)) s) := by
  simp [microStep, nextAction, hp, hr]

theorem microStep_of_answered (hp : s.block.phase = .answered) (hr : s.block.req = some r) :
    microStep s = .next (deliver (selDeassert s)) := by
  rw [microStep, nextAction_of_answered hp hr]

theorem microStep_of_accept {rest : List Request} (hp : s.block.phase = .idle) (quiet : s.quiet)
    (hq : s.requests = r :: rest) :
    microStep s = .next (openBracket (encode (commandOf r none)) (acceptRequest r s)) := by
  rw [microStep, nextAction_of_accept hp quiet hq]

theorem microStep_of_writeBack (hp : s.block.phase = .between) (quiet : s.quiet)
    (hr : s.block.req = some r) :
    microStep s = .next (openBracket (encode (commandOf r s.block.held)) (takeTurn s)) := by
  rw [microStep, nextAction_of_writeBack hp quiet hr]

theorem microStep_of_waiting (hp : s.block.phase = .idle) (quiet : s.quiet) (hq : s.requests = []) :
    microStep s = .next (takeTurn s) := by
  have turn : nextAction s = .waiting := by simp only [nextAction, hp, quiet, hq]
  rw [microStep, turn]

theorem microStep_of_envDue {m : EnvMove} (ready : s.ready) (due : envDue s.env = some m) :
    microStep s = .next (envMove m s) := by
  rw [microStep, nextAction_of_envDue ready due]

/-- A bracket that is open is polled and, where the far end answers, closed: one transition or two. -/
theorem microSteps_of_selected (hp : s.block.phase = .selected) (hr : s.block.req = some r) :
    ∃ n, 1 ≤ n ∧ n ≤ 2 ∧ microSteps n s =
      .next (deliver (resumeBracket (respKind (commandOf r s.block.held)) s)) := by
  have first := microStep_of_selected hp hr
  obtain ⟨silent, waits⟩ | ⟨answered, closed⟩ :=
    resumeBracket_cases (respKind (commandOf r s.block.held)) s hp
  · refine ⟨1, le_rfl, by decide, ?_⟩
    have polled := poll_silent silent
    have unmoved : deliver (afterPoll s (s.block.txOctets (respKind (commandOf r s.block.held)))) = _ :=
      deliver_of_not_idle (by simp [hp])
    rw [microSteps_succ first, waits, polled, unmoved]
    rfl
  · refine ⟨2, by decide, le_rfl, ?_⟩
    have request : (poll (respKind (commandOf r s.block.held)) s).block.req = some r := by
      obtain ⟨-, polled⟩ | ⟨-, polled⟩ | ⟨r0, r1, -, polled⟩ :=
        poll_cases (respKind (commandOf r s.block.held)) s <;> simp [polled, hr]
    rw [microSteps_succ first, microSteps_succ (microStep_of_answered answered request), closed]
    rfl

/-- A whole bracket is its opening, and then the transitions of the open bracket. -/
theorem microSteps_of_openBracket {i : Instr} {u : State} (hr : u.block.req = some r)
    (hi : commandOf r u.block.held = i) (first : microStep s = .next (openBracket (encode i) u)) :
    ∃ n, 1 ≤ n ∧ n ≤ 3 ∧ microSteps n s = .next (deliver (transact (encode i) (respKind i) u)) := by
  obtain ⟨n, pos, le, run⟩ := microSteps_of_selected (s := openBracket (encode i) u) rfl (by simpa using hr)
  refine ⟨n + 1, by omega, by omega, ?_⟩
  have command : commandOf r (openBracket (encode i) u).block.held = i := by simpa using hi
  rw [microSteps_succ first, run, command]
  rfl

end micro

theorem microSteps_of_step {s t : State} (h : step s = .next t) :
    ∃ n, 1 ≤ n ∧ n ≤ 3 ∧ microSteps n s = .next t := by
  cases stepTo_of_step h with
  | environment ready due =>
    exact ⟨1, le_rfl, by decide, microSteps_succ (microStep_of_envDue ready due) 0⟩
  | waiting hp quiet hq =>
    exact ⟨1, le_rfl, by decide, microSteps_succ (microStep_of_waiting hp quiet hq) 0⟩
  | accept hp quiet hq => exact microSteps_of_openBracket rfl rfl (microStep_of_accept hp quiet hq)
  | writeBack hp quiet hr =>
    have request : (takeTurn s).block.req = _ := (congrArg Block.req (takeTurn_block s)).trans hr
    exact microSteps_of_openBracket request (by rw [takeTurn_block]) (microStep_of_writeBack hp quiet hr)
  | resume hp hr =>
    obtain ⟨n, pos, le, run⟩ := microSteps_of_selected hp hr
    exact ⟨n, pos, by omega, run⟩
  | close hp hr => exact ⟨1, le_rfl, by decide, microSteps_succ (microStep_of_answered hp hr) 0⟩

/-! ### The invariant, phase by phase -/

section inv
variable {s : State} (inv : s.Inv)
include inv

theorem State.Inv.scan : busScan s.trace (some .closed) = some (busPhaseOf s.block.phase) := inv.2

theorem State.Inv.idle (hp : s.block.phase = .idle) : s.block = Block.reset := by
  have consistent := inv.1
  rwa [Block.consistent, hp] at consistent

theorem State.Inv.selected (hp : s.block.phase = .selected) :
    s.block.cs = .asserted ∧ s.block.heldFits ∧ ∃ i, s.block.inFlight i := by
  have consistent := inv.1
  rwa [Block.consistent, hp] at consistent

theorem State.Inv.answered (hp : s.block.phase = .answered) :
    s.block.cs = .asserted ∧ s.block.heldFits ∧ (∃ i, s.block.inFlight i) ∧ s.block.ack.isSome := by
  have consistent := inv.1
  rwa [Block.consistent, hp] at consistent

theorem State.Inv.between (hp : s.block.phase = .between) :
    s.block.cs = .deasserted ∧ s.block.heldFits ∧ s.block.held.isSome ∧ s.block.ack = some true := by
  have consistent := inv.1
  rwa [Block.consistent, hp] at consistent

theorem State.Inv.cs : s.block.cs = selectOf s.block.phase := by
  cases hp : s.block.phase with
  | idle => rw [inv.idle hp]; rfl
  | selected => exact (inv.selected hp).1
  | answered => exact (inv.answered hp).1
  | between => exact (inv.between hp).1

/-- Between its brackets a `modify_register` is in flight. -/
theorem State.Inv.between_req (hp : s.block.phase = .between) :
    ∃ a f, s.block.req = some (.modifyRegister a f) := by
  obtain ⟨-, fits, held, -⟩ := inv.between hp
  obtain ⟨v, hv⟩ := Option.isSome_iff_exists.mp held
  rw [Block.heldFits, hv] at fits
  exact fits.1

end inv

theorem Block.heldFits_congr {b b' : Block} (hr : b'.req = b.req) (hh : b'.held = b.held)
    (h : b.heldFits) : b'.heldFits := by
  rwa [heldFits, hh, hr]

theorem Block.inFlight_congr {b b' : Block} {i : Instr} (hr : b'.req = b.req) (hh : b'.held = b.held)
    (h0 : b'.tx0 = b.tx0) (h1 : b'.tx1 = b.tx1) (h : b.inFlight i) : b'.inFlight i := by
  have octets (k : RespKind) : b'.txOctets k = b.txOctets k := by cases k <;> simp [txOctets, h0, h1]
  rwa [inFlight, hr, hh, octets]

/-! ### Each transition keeps it -/

theorem inv_openBracket {s : State} {r : Request} {i : Instr} (hr : s.block.req = some r)
    (hi : i = commandOf r s.block.held) (fits : s.block.heldFits)
    (scan : busScan s.trace (some .closed) = some .closed) : (openBracket (encode i) s).Inv := by
  refine ⟨⟨rfl, Block.heldFits_congr ?_ ?_ fits, i, ⟨r, ?_, ?_⟩, txOctets_openBracket i s⟩, ?_⟩
  · simp
  · simp
  · simpa using hr
  · simpa using hi
  · rw [openBracket_trace, busScan_append, scan]
    rfl

theorem inv_poll {s : State} (k : RespKind) (inv : s.Inv) (hp : s.block.phase = .selected) :
    (poll k s).Inv := by
  obtain ⟨cs, fits, i, flight⟩ := inv.selected hp
  have scan (out : List Octet) (ans : Answer) :
      busScan (s.trace ++ [.exchange out ans]) (some .closed) = some .exchanged := by
    rw [busScan_append, inv.scan, hp]
    rfl
  obtain ⟨-, polled⟩ | ⟨-, polled⟩ | ⟨r0, r1, -, polled⟩ := poll_cases k s <;> rw [polled]
  · exact inv
  · exact ⟨⟨cs, fits, ⟨i, flight⟩, rfl⟩, scan ..⟩
  · refine ⟨⟨?_, Block.heldFits_congr ?_ ?_ fits, ⟨i, Block.inFlight_congr ?_ ?_ ?_ ?_ flight⟩, ?_⟩,
      scan ..⟩
    · simpa using cs
    all_goals simp

/-- A value to hold is nine data bits widened, and comes with an acknowledgement (R132). -/
theorem readResult_eq_some {ack : Bit} {data : Option Data9} {v : Word16}
    (h : readResult ack data = some v) : ack = true ∧ ∃ d : Data9, v = zext16 d := by
  cases ack with
  | false => cases h
  | true =>
    obtain ⟨d, -, rfl⟩ := Option.map_eq_some_iff.mp h
    exact ⟨rfl, d, rfl⟩

theorem inv_close {s : State} (inv : s.Inv) (hp : s.block.phase = .answered) :
    (deliver (selDeassert s)).Inv := by
  obtain ⟨-, -, ⟨i, ⟨r, hr, -⟩, -⟩, acked⟩ := inv.answered hp
  obtain ⟨ack, ha⟩ := Option.isSome_iff_exists.mp acked
  have scan : busScan (selDeassert s).trace (some .closed) = some .closed := by
    rw [selDeassert_trace, busScan_append, inv.scan, hp]
    rfl
  obtain ⟨res, finished⟩ | ⟨a, f, v, rfl, -, value, kept⟩ := deliver_cases (s := selDeassert s) rfl hr ha
  · rw [finished]
    refine ⟨rfl, ?_⟩
    rw [finish_trace, busScan_append, scan]
    rfl
  · obtain ⟨rfl, d, rfl⟩ := readResult_eq_some value
    rw [kept]
    exact ⟨⟨rfl, ⟨⟨a, f, hr⟩, d, rfl⟩, rfl, ha⟩, scan⟩

theorem takeTurn_inv {s : State} (inv : s.Inv) : (takeTurn s).Inv := by
  rw [takeTurn_eq]
  exact inv

theorem envMove_inv {s : State} (m : EnvMove) (inv : s.Inv) : (envMove m s).Inv := by
  cases m <;> exact inv

theorem microStep_keeps_inv {s t : State} (inv : s.Inv) (h : microStep s = .next t) : t.Inv := by
  obtain ⟨act, hact, turn⟩ := nextAction_turn s
  rw [microStep, hact] at h
  cases turn with
  | environment => cases h; exact envMove_inv _ inv
  | waiting => cases h; exact takeTurn_inv inv
  | accept hp =>
    cases h
    have scan := inv.scan
    rw [hp] at scan
    exact inv_openBracket rfl rfl trivial (by rw [acceptRequest_trace, scan]; rfl)
  | writeBack hp quiet hr =>
    cases h
    have scan := inv.scan
    rw [hp] at scan
    obtain ⟨-, fits, -, -⟩ := inv.between hp
    have request : (takeTurn s).block.req = _ := (congrArg Block.req (takeTurn_block s)).trans hr
    exact inv_openBracket request (by rw [takeTurn_block]) (by rwa [takeTurn_block])
      (by rw [takeTurn_trace, scan]; rfl)
  | resume hp => cases h; exact inv_poll _ inv hp
  | close hp => cases h; exact inv_close inv hp
  | stuck => cases h

theorem microSteps_keeps_inv (n : Nat) : ∀ {s t : State}, s.Inv → microSteps n s = .next t → t.Inv := by
  induction n with
  | zero => intro s t inv h; cases h; exact inv
  | succ n ih =>
    intro s t inv h
    cases first : microStep s with
    | next u => exact ih (microStep_keeps_inv inv first) ((microSteps_succ first n).symm.trans h)
    | fault r => simp [microSteps, first] at h
    | refused r => simp [microSteps, first] at h

theorem step_keeps_inv {s t : State} (inv : s.Inv) (h : step s = .next t) : t.Inv := by
  obtain ⟨n, -, -, run⟩ := microSteps_of_step h
  exact microSteps_keeps_inv n inv run

end Sys2Proof.Machine

open Sys2Proof Sys2Proof.Machine

/-- Settles O44: each field is evaluated. -/
theorem resetBlock : Obligations.ResetBlock := ⟨rfl, rfl, rfl⟩

/-- Settles O45: the block is as after reset and no event is recorded. -/
theorem resetMeetsInvariant : Obligations.ResetMeetsInvariant := ⟨rfl, rfl⟩

/-- Settles O46: each transition of the phase keeps the invariant (`inv_openBracket`, `inv_poll`,
`inv_close`), and a step is some of them (`microSteps_of_step`). -/
theorem stepKeepsInvariant : Obligations.StepKeepsInvariant := fun _ _ => step_keeps_inv

/-- Settles O50: a bracket is its opening, a poll and, where it is answered, its closing. -/
theorem stepIsPhaseTransitions : Obligations.StepIsPhaseTransitions := fun _ _ => microSteps_of_step
end

section
/-! PROOF. What a step leaves alone (R8, R13), the events it adds (R110, R139, R151), where the phase may go
(R13), and a bracket that is never answered (R205). -/

namespace Sys2Proof.Machine

/-! ### What the environment keeps -/

theorem envMove_requests (m : EnvMove) (s : State) : (envMove m s).requests = s.requests := by
  cases m <;> rfl

theorem envMove_block (m : EnvMove) (s : State) : (envMove m s).block = s.block := by
  cases m <;> rfl

theorem envMove_trace (m : EnvMove) (s : State) : (envMove m s).trace = s.trace := by
  cases m <;> rfl

section frame
variable (k : RespKind) (s : State)

/-- A poll takes nothing from the queues and leaves the peer's arguments. -/
theorem poll_frame : (poll k s).env = s.env ∧ (poll k s).requests = s.requests ∧
    (poll k s).peer.accept = s.peer.accept := by
  have accept := (peerAfter_arguments s (s.block.txOctets k)).1
  obtain ⟨-, polled⟩ | ⟨-, polled⟩ | ⟨r0, r1, -, polled⟩ := poll_cases k s <;> rw [polled] <;>
    exact ⟨rfl, rfl, accept⟩

theorem resumeBracket_frame : (resumeBracket k s).env = s.env ∧
    (resumeBracket k s).requests = s.requests ∧ (resumeBracket k s).peer.accept = s.peer.accept := by
  have frame := poll_frame k s
  unfold resumeBracket
  dsimp only
  split <;> exact frame

theorem deliver_transact_requests (out : List Octet) :
    (deliver (transact out k s)).requests = s.requests := by
  rw [(deliver_environment _).2.1]
  exact (resumeBracket_frame k (openBracket out s)).2.1

end frame

theorem step_requests {s t : State} (h : step s = .next t) :
    t.requests = s.requests ∨ (s.block.phase = .idle ∧ ∃ r, s.requests = r :: t.requests) := by
  cases stepTo_of_step h with
  | environment => exact .inl (envMove_requests _ s)
  | waiting => exact .inl (takeTurn_requests s)
  | @accept r rest hp quiet hq =>
    refine .inr ⟨hp, r, ?_⟩
    rw [deliver_transact_requests, acceptRequest_requests, hq]
    rfl
  | writeBack => exact .inl ((deliver_transact_requests ..).trans (takeTurn_requests s))
  | resume => exact .inl ((deliver_environment _).2.1.trans (resumeBracket_frame _ s).2.1)
  | close => exact .inl (deliver_environment _).2.1

/-- While a bracket is open no one but the far end acts (R13). -/
theorem step_frame_of_open {s t : State} (h : step s = .next t)
    (hp : s.block.phase = .selected ∨ s.block.phase = .answered) :
    t.env = s.env ∧ t.requests = s.requests ∧ t.peer.accept = s.peer.accept := by
  cases stepTo_of_step h with
  | environment ready => obtain hp | hp := hp <;> simp [State.ready, hp] at ready
  | waiting hp' => simp [hp'] at hp
  | accept hp' => simp [hp'] at hp
  | writeBack hp' => simp [hp'] at hp
  | resume =>
    obtain ⟨env, requests, peer⟩ := deliver_environment (resumeBracket _ s)
    obtain ⟨env', requests', accept⟩ := resumeBracket_frame _ s
    exact ⟨env.trans env', requests.trans requests', (congrArg Peer.accept peer).trans accept⟩
  | close =>
    obtain ⟨env, requests, peer⟩ := deliver_environment (selDeassert s)
    exact ⟨env, requests, congrArg Peer.accept peer⟩

/-! ### The events of a step -/

/-- The events of a bracket and of a result after it. -/
def bracketEvents (out : List Octet) (ans : Answer) (res : Result) : List Event :=
  [.selAssert, .exchange out ans, .selDeassert, .result res]

/-- The state's events are those of `s` and then some of a bracket's, in their order. -/
def AddsBracketEvents (s t : State) : Prop :=
  ∃ events out ans res, t.trace = s.trace ++ events ∧ events.Sublist (bracketEvents out ans res)

theorem addsBracketEvents_of_trace_eq {s t : State} (h : t.trace = s.trace) : AddsBracketEvents s t :=
  ⟨[], [], .fail, .bit false, by rw [h, List.append_nil], List.nil_sublist _⟩

/-- A result may be recorded after a bracket's events. -/
theorem addsBracketEvents_deliver {s u : State} {events : List Event} (out : List Octet) (ans : Answer)
    (h : u.trace = s.trace ++ events)
    (sub : events.Sublist [.selAssert, .exchange out ans, .selDeassert]) :
    AddsBracketEvents s (deliver u) := by
  obtain same | ⟨res, added⟩ := deliver_trace u
  · refine ⟨events, out, ans, .bit false, same.trans h, sub.trans ?_⟩
    exact List.sublist_append_left _ [_]
  · refine ⟨events ++ [.result res], out, ans, res, ?_, sub.append (List.Sublist.refl [_])⟩
    rw [added, h, List.append_assoc]

theorem transact_trace (i : Instr) (s : State) :
    ∃ events ans, (transact (encode i) (respKind i) s).trace = s.trace ++ events ∧
      events.Sublist [.selAssert, .exchange (encode i) ans, .selDeassert] := by
  cases reply : farReply s (encode i) with
  | silent => exact ⟨_, .fail, by rw [transact_silent reply]; rfl, by simp⟩
  | fail => exact ⟨_, _, by rw [transact_fail reply]; rfl, List.Sublist.refl _⟩
  | ok r0 r1 => exact ⟨_, _, by rw [transact_ok reply]; rfl, List.Sublist.refl _⟩

theorem poll_trace_of_answered {k : RespKind} {s : State} (hp : s.block.phase = .selected)
    (answered : (poll k s).block.phase = .answered) :
    ∃ out ans, (poll k s).trace = s.trace ++ [.exchange out ans] := by
  obtain ⟨-, polled⟩ | ⟨-, polled⟩ | ⟨r0, r1, -, polled⟩ := poll_cases k s
  · simp [polled, hp] at answered
  · exact ⟨_, _, congrArg State.trace polled⟩
  · exact ⟨_, _, congrArg State.trace polled⟩

theorem resumeBracket_trace (k : RespKind) (s : State) (hp : s.block.phase = .selected) :
    ∃ events out ans, (resumeBracket k s).trace = s.trace ++ events ∧
      events.Sublist [.selAssert, .exchange out ans, .selDeassert] := by
  obtain ⟨-, waits⟩ | ⟨answered, closed⟩ := resumeBracket_cases k s hp
  · exact ⟨[], [], .fail, by simp [waits], List.nil_sublist _⟩
  · obtain ⟨out, ans, exchanged⟩ := poll_trace_of_answered hp answered
    refine ⟨[.exchange out ans, .selDeassert], out, ans, ?_, List.sublist_cons_self ..⟩
    rw [closed, selDeassert_trace, exchanged, List.append_assoc]
    rfl

theorem step_adds_bracketEvents {s t : State} (h : step s = .next t) : AddsBracketEvents s t := by
  cases stepTo_of_step h with
  | environment => exact addsBracketEvents_of_trace_eq (envMove_trace _ s)
  | waiting => exact addsBracketEvents_of_trace_eq (takeTurn_trace s)
  | @accept r =>
    obtain ⟨events, ans, trace, sub⟩ := transact_trace (commandOf r none) (acceptRequest r s)
    rw [acceptRequest_trace] at trace
    exact addsBracketEvents_deliver _ ans trace sub
  | @writeBack r =>
    obtain ⟨events, ans, trace, sub⟩ := transact_trace (commandOf r s.block.held) (takeTurn s)
    rw [takeTurn_trace] at trace
    exact addsBracketEvents_deliver _ ans trace sub
  | resume hp =>
    obtain ⟨events, out, ans, trace, sub⟩ := resumeBracket_trace _ s hp
    exact addsBracketEvents_deliver out ans trace sub
  | close => exact addsBracketEvents_deliver [] .fail (selDeassert_trace s) (by simp)

/-! ### Counting events -/

theorem countOf_append (p : Event → Bool) (l l' : List Event) :
    countOf p (l ++ l') = countOf p l + countOf p l' := by
  simp [countOf]

theorem countOf_cons (p : Event → Bool) (e : Event) (l : List Event) :
    countOf p (e :: l) = (p e).toNat + countOf p l := by
  cases he : p e <;> simp [countOf, he, Nat.add_comm]

theorem countOf_le_of_sublist (p : Event → Bool) {l l' : List Event} (h : l.Sublist l') :
    countOf p l ≤ countOf p l' :=
  (h.filter p).length_le

/-- The deassertions still to come where the bus stands in the pattern of R139. -/
def BusPhase.owedDeasserts : BusPhase → Nat
  | .closed    => 0
  | .opened    => 1
  | .exchanged => 1

/-- The exchanges still to come. -/
def BusPhase.owedExchanges : BusPhase → Nat
  | .closed    => 0
  | .opened    => 1
  | .exchanged => 0

/-- One event of the pattern: an assertion puts one of each in debt, the others pay. -/
theorem busNext_owed {p q : BusPhase} {e : Event} (h : busNext p e = some q) :
    (isAssert e).toNat + p.owedDeasserts = (isDeassert e).toNat + q.owedDeasserts ∧
    (isAssert e).toNat + p.owedExchanges = (isExchange e).toNat + q.owedExchanges := by
  cases p <;> cases e <;> cases h <;> exact ⟨rfl, rfl⟩

theorem busScan_owed {events : List Event} : ∀ {p q : BusPhase}, busScan events (some p) = some q →
    countOf isAssert events + p.owedDeasserts = countOf isDeassert events + q.owedDeasserts ∧
    countOf isAssert events + p.owedExchanges = countOf isExchange events + q.owedExchanges := by
  induction events with
  | nil => intro p q h; cases h; exact ⟨rfl, rfl⟩
  | cons e events ih =>
    intro p q h
    rw [busScan_cons, Option.bind_some] at h
    cases first : busNext p e with
    | none => simp [first] at h
    | some p' =>
      rw [first] at h
      obtain ⟨deasserts, exchanges⟩ := ih h
      obtain ⟨deassert, exchange⟩ := busNext_owed first
      simp only [countOf_cons]
      omega

/-- In a state that meets the invariant every assertion has had its exchange and its deassertion, but for
what the open bracket owes. -/
theorem State.Inv.owed {s : State} (inv : s.Inv) :
    countOf isAssert s.trace =
      countOf isDeassert s.trace + (busPhaseOf s.block.phase).owedDeasserts ∧
    countOf isAssert s.trace =
      countOf isExchange s.trace + (busPhaseOf s.block.phase).owedExchanges :=
  busScan_owed inv.scan

/-- A deassertion is owed exactly where `cs` is asserted. -/
theorem State.Inv.balance {s : State} (inv : s.Inv) : countOf isAssert s.trace =
    countOf isDeassert s.trace + if s.block.cs = .asserted then 1 else 0 := by
  obtain ⟨owed, -⟩ := inv.owed
  rw [owed, inv.cs]
  cases s.block.phase <;> rfl

/-- A step that closes its bracket deasserts `cs` once: the balance before it and after it leave no other
number. -/
theorem countOf_isDeassert_of_closes {s t : State} {events : List Event} (inv : s.Inv) (inv' : t.Inv)
    (added : t.trace = s.trace ++ events) (once : countOf isDeassert events ≤ 1)
    (closed : t.block.cs = .deasserted)
    (opened : s.block.cs = .asserted ∨ countOf isAssert events = 1) :
    countOf isDeassert events = 1 := by
  have before := inv.balance
  have after := inv'.balance
  rw [closed, if_neg nofun, added, countOf_append, countOf_append] at after
  by_cases asserted : s.block.cs = .asserted
  · rw [if_pos asserted] at before
    omega
  · have asserts := opened.resolve_left asserted
    rw [if_neg asserted] at before
    omega

/-! ### Where the phase goes -/

/-- Taking a result leaves the phase `IDLE`, or goes from there to `BETWEEN`. -/
theorem deliver_phase {s : State} (hp : s.block.phase = .idle) :
    (deliver s).block.phase = .idle ∨ (deliver s).block.phase = .between := by
  cases hr : s.block.req with
  | none => exact .inl (by simp [deliver, hp, hr])
  | some r =>
    cases ha : s.block.ack with
    | none => exact .inl (by simp [deliver, hp, hr, ha])
    | some ack =>
      obtain ⟨res, finished⟩ | ⟨a, f, v, -, -, -, kept⟩ := deliver_cases hp hr ha
      · exact .inl (by rw [finished]; rfl)
      · exact .inr (by rw [kept]; rfl)

theorem microStep_phaseMove {s t : State} (h : microStep s = .next t) :
    t.block = s.block ∨ phaseMove s.block.phase t.block.phase = true := by
  obtain ⟨act, hact, turn⟩ := nextAction_turn s
  rw [microStep, hact] at h
  cases turn with
  | environment => cases h; exact .inl (envMove_block _ s)
  | waiting => cases h; exact .inl (takeTurn_block s)
  | accept hp => cases h; exact .inr (by rw [hp]; rfl)
  | writeBack hp => cases h; exact .inr (by rw [hp]; rfl)
  | @resume r hp =>
    cases h
    obtain ⟨-, polled⟩ | ⟨-, polled⟩ | ⟨r0, r1, -, polled⟩ :=
      poll_cases (respKind (commandOf r s.block.held)) s
    · exact .inl (by rw [polled, afterPoll_block])
    · exact .inr (by rw [polled, hp]; rfl)
    · exact .inr (by rw [polled, hp]; rfl)
  | close hp =>
    cases h
    obtain idle | between := deliver_phase (s := selDeassert s) rfl
    · exact .inr (by rw [hp, idle]; rfl)
    · exact .inr (by rw [hp, between]; rfl)
  | stuck => cases h

/-! ### A far end that stays silent -/

/-- A state with the same block, the same queues and the same events. -/
def Unmoved (s t : State) : Prop :=
  t.block = s.block ∧ t.requests = s.requests ∧ t.env = s.env ∧ t.trace = s.trace

/-- For as long as the far end stays silent at every poll, the open bracket waits. -/
theorem run_of_silent {r : Request} (n : Nat) : ∀ s : State, s.block.phase = .selected →
    s.block.req = some r →
    (∀ k < n, ∀ u, Host.Core.run core k s = .next u →
      farReply u (s.block.txOctets (respKind (commandOf r s.block.held))) = .silent) →
    ∃ t, Host.Core.run core n s = .next t ∧ Unmoved s t := by
  induction n with
  | zero => exact fun s _ _ _ => ⟨s, rfl, rfl, rfl, rfl, rfl⟩
  | succ n ih =>
    intro s hp hr silent
    have first := step_of_silent hp hr (silent 0 (Nat.succ_pos n) s rfl)
    obtain ⟨t, run, unmoved⟩ := ih (afterPoll s _) hp hr fun k lt u reached =>
      silent (k + 1) (Nat.succ_lt_succ lt) u ((run_succ first k).trans reached)
    exact ⟨t, (run_succ first n).trans run, unmoved⟩

/-- A list of replies that has run out stays run out while the block waits. -/
theorem run_of_script_nil {r : Request} (k : Nat) : ∀ s u : State, s.block.phase = .selected →
    s.block.req = some r → s.failNext = false → s.far = .script [] →
    Host.Core.run core k s = .next u → u.failNext = false ∧ u.far = .script [] := by
  induction k with
  | zero => intro s u _ _ fail far reached; cases reached; exact ⟨fail, far⟩
  | succ k ih =>
    intro s u hp hr fail far reached
    have silent : farReply s (s.block.txOctets (respKind (commandOf r s.block.held))) = .silent := by
      simp [farReply, fail, far]
    have first := step_of_silent hp hr silent
    exact ih (afterPoll s _) u hp hr rfl (by rw [afterPoll_far, far]; rfl) 
      ((run_succ first k).symm.trans reached)

end Sys2Proof.Machine

open Sys2Proof Sys2Proof.Machine

/-- Settles O36: each silent poll is a step that moves nothing; a list that has run out is one such far
end. -/
theorem unansweredExchangeHangs : Obligations.UnansweredExchangeHangs := by
  refine ⟨fun n s r hp hr => run_of_silent n s hp hr, fun n s hp req fail far => ?_⟩
  obtain ⟨r, hr⟩ := Option.isSome_iff_exists.mp req
  refine run_of_silent n s hp hr fun k _ u reached => ?_
  obtain ⟨fail', far'⟩ := run_of_script_nil k s u hp hr fail far reached
  simp [farReply, fail', far']

/-- Settles O43, by the frames of the step (`step_frame_of_open`, `step_requests`, `step_of_envDue`). -/
theorem othersActOnlyBetweenBrackets : Obligations.OthersActOnlyBetweenBrackets := by
  intro s t h
  refine ⟨step_frame_of_open h, step_requests h, ?_⟩
  rintro ⟨m, due⟩ ready
  cases h.symm.trans (step_of_envDue ready due)
  exact ⟨envMove_block m s, envMove_trace m s⟩

/-- Settles O47: `cs` by the invariant's four phases, the counts by `State.Inv.balance`. -/
theorem chipSelectFollowsPhase : Obligations.ChipSelectFollowsPhase := by
  intro s inv
  have balance := inv.balance
  exact ⟨inv.cs, fun cs => by simpa [cs] using balance, fun cs => by simpa [cs] using balance⟩

/-- Settles O48: the one refusal wants an operation in flight without a request, and the invariant has
none. -/
theorem stepAlwaysAnswersNext : Obligations.StepAlwaysAnswersNext := by
  intro s inv
  apply step_answers_next
  cases hp : s.block.phase with
  | idle => exact .inl rfl
  | selected =>
    obtain ⟨-, -, i, ⟨r, hr, -⟩, -⟩ := inv.selected hp
    exact .inr (by rw [hr]; rfl)
  | answered =>
    obtain ⟨-, -, ⟨i, ⟨r, hr, -⟩, -⟩, -⟩ := inv.answered hp
    exact .inr (by rw [hr]; rfl)
  | between =>
    obtain ⟨a, f, hr⟩ := inv.between_req hp
    exact .inr (by rw [hr]; rfl)

/-- Settles O49: the counts by `State.Inv.owed`, before the step and after it; a step adds some of one
bracket's events (`step_adds_bracketEvents`). -/
theorem deassertedExactlyOnce : Obligations.DeassertedExactlyOnce := by
  refine ⟨fun s inv => ?_, fun s t inv h => ?_⟩
  · obtain ⟨deasserts, exchanges⟩ := inv.owed
    refine ⟨?_, fun hp => ?_, fun hp => ?_⟩
    · rintro (hp | hp) <;> rw [hp] at deasserts exchanges <;> exact ⟨deasserts.symm, exchanges.symm⟩
    · rw [hp] at deasserts exchanges
      exact ⟨deasserts.symm, exchanges.symm⟩
    · rw [hp] at deasserts exchanges
      exact ⟨deasserts.symm, exchanges.symm⟩
  · obtain ⟨events, out, ans, res, added, sub⟩ := step_adds_bracketEvents h
    have once := countOf_le_of_sublist isDeassert sub
    exact ⟨events, added, countOf_le_of_sublist isAssert sub, countOf_le_of_sublist isExchange sub, once,
      countOf_isDeassert_of_closes inv (step_keeps_inv inv h) added once⟩

/-- Settles O51, by the turns of `nextAction_turn`. -/
theorem phaseTransitionsOfTheSpec : Obligations.PhaseTransitionsOfTheSpec := fun _ _ => microStep_phaseMove
end
